-- ==== Sys2Proof/Word.lean ====
section
/-! DEFINITION. The plainest types: a byte, a line of sixteen bytes, and the identifiers of the eight
streams, the four banks and the 48 slots. Byte addresses are Nat: the end of a window may be
16,777,216, one past the highest 24-bit address (01_streams_and_windows.md, section 1.2). -/

namespace Sys2Proof

/-- One byte. -/
abbrev Byte := BitVec 8

/-- The sixteen bytes of one line (R2). -/
abbrev Line := Vector Byte 16

/-- Sixteen flags, one for each byte of a line (glossary, "byte mask"). -/
abbrev ByteMask := BitVec 16

/-- A stream number, 0 to 7 (R4). -/
abbrev StreamId := Fin 8

/-- A bank number, 0 to 3 (R99). -/
abbrev BankId := Fin 4

/-- A slot number, 0 to 47 (R21). -/
abbrev SlotId := Fin 48

end Sys2Proof
end

