-- ==== Sys2Proof/Syntax.lean ====
section
/-! DEFINITION. The commands of the block: one constructor of Instr per row of spec/opcode_table.json.
A command of the processor is one bus access at a position of the register window (R181), so the
thirteen commands of the Command Port carry no operand: they take their parameters from PARAM0 to
PARAM15, as R162 and R167 say. -/

namespace Sys2Proof

/-- The direction of a bus access; a write carries the byte on D7 to D0 (R181). -/
inductive Access where
  | read
  | write (value : Byte)
  deriving DecidableEq, Repr

/-- The 64 positions of the register window, as the table of R188 names them. -/
inductive Position where
  | data (n : StreamId)
  | param (i : Fin 16)
  | command
  | cmdStatus
  | result (i : Fin 8)
  | eventPending
  | eventEnable
  | streamEvent (n : StreamId)
  | streamState (n : StreamId)
  | streamEventEnable
  | memoryStatus
  | poolFree
  | postCount
  | jobStatus
  | control
  | unmapped (k : Fin 6)
  deriving DecidableEq, Repr

/-- Which close settle ends: a bank's own, or the one that start-up phase 2 waits for, which belongs
to no bank record (R128, R129). -/
inductive SettleOf where
  | bank (b : BankId)
  | startUp
  deriving DecidableEq, Repr

/-- The commands and events of the block, in the order of the table. -/
inductive Instr where
  | openRead
  | openWrite
  | seek
  | flush
  | close
  | queryStream
  | sync
  | submitJob
  | cancelJob
  | takeCompletion
  | setTiming
  | memStart
  | setClock
  /-- a write of COMMAND with a code that is not in the command code table (R163) -/
  | badCommand (code : Byte)
  /-- a write of CONTROL with bit 0 set (R169) -/
  | softReset (value : Byte)
  | dataPortRead (n : StreamId)
  | dataPortWrite (n : StreamId) (value : Byte)
  | eventPendingWrite (value : Byte)
  | streamEventWrite (n : StreamId) (value : Byte)
  | eventEnableWrite (value : Byte)
  | streamEventEnableWrite (value : Byte)
  /-- a read or write of one of the positions 0x3A to 0x3F (R183) -/
  | unmappedAccess (k : Fin 6) (access : Access)
  /-- an access of a position with no behaviour of its own; reads of every register position stand
  here too, since the rules of their contents are this row's (log entry 3) -/
  | registerWrite (position : Position) (access : Access)
  | strobeRemovedEarly
  | stretchTimerExpiry
  | lingerExpiry (n : StreamId)
  | rowAgeExpiry (b : BankId)
  | renewalIntervalExpiry
  | settleEnd
  | pinReset
  | pinResetRelease
  | openRow (b : BankId)
  | closeRow (b : BankId)
  | closeAll
  | readBurst (b : BankId)
  | writeBurst (b : BankId)
  | renewAll
  | loadOptions
  | openSettleEnd (b : BankId)
  | closeSettleEnd (which : SettleOf)
  | fetchReturn (b : BankId)
  | writeDataEnd (b : BankId)
  | storeComplete (b : BankId)
  | renewalComplete
  | optionLoadEnd
  | slotGrant
  | requestGrant
  | heldPostAcceptance
  | drainComplete
  | opportunisticRenewal
  | resettingEnd
  | jobStart
  | destinationLineBuild
  | scanExamination
  | compareChunk
  | jobEnd
  | busCycleEnd
  | microsecondBoundary
  deriving DecidableEq, Repr

end Sys2Proof
end

