-- ==== Sys2Proof/WellFormed.lean ====
section
/-! DEFINITION. Which operands a row of the table admits. A command with other operands is the same
bus access under another row's name; its meaning is still the access's (Machine/Window.lean). -/

namespace Sys2Proof

/-- The codes of the command code table (R163). -/
def commandCodes : List Byte :=
  [0x01#8, 0x02#8, 0x03#8, 0x04#8, 0x05#8, 0x06#8, 0x08#8, 0x10#8, 0x11#8, 0x12#8, 0x20#8, 0x21#8, 0x22#8]

/-- A position whose write has no behaviour of its own: it stores a parameter byte or is ignored
(R162, R183), or is a write of CONTROL that starts nothing (R168). -/
def plainWrite : Position → Byte → Bool
  | .param _, _ => true
  | .cmdStatus, _ => true
  | .result _, _ => true
  | .streamState _, _ => true
  | .memoryStatus, _ => true
  | .poolFree, _ => true
  | .postCount, _ => true
  | .jobStatus, _ => true
  | .control, v => !v.getLsbD 0
  | .data _, _ => false
  | .command, _ => false
  | .eventPending, _ => false
  | .eventEnable, _ => false
  | .streamEvent _, _ => false
  | .streamEventEnable, _ => false
  | .unmapped _, _ => false

/-- A position whose read is a register's: every position but the data ports, which have a row of
their own, and the unmapped positions (R183). -/
def plainRead : Position → Bool
  | .data _ => false
  | .unmapped _ => false
  | .param _ | .command | .cmdStatus | .result _ | .eventPending | .eventEnable | .streamEvent _
  | .streamState _ | .streamEventEnable | .memoryStatus | .poolFree | .postCount | .jobStatus
  | .control => true

/-- The checks of a row's operands; a row with no check admits every operand of its type. -/
def Instr.wellFormed : Instr → Bool
  | .badCommand code => !commandCodes.contains code
  | .softReset v => v.getLsbD 0
  | .registerWrite p (.write v) => plainWrite p v
  | .registerWrite p .read => plainRead p
  | .openRead | .openWrite | .seek | .flush | .close | .queryStream | .sync | .submitJob | .cancelJob
  | .takeCompletion | .setTiming | .memStart | .setClock | .dataPortRead _ | .dataPortWrite _ _
  | .eventPendingWrite _ | .streamEventWrite _ _ | .eventEnableWrite _ | .streamEventEnableWrite _
  | .unmappedAccess _ _ | .strobeRemovedEarly | .stretchTimerExpiry | .lingerExpiry _ | .rowAgeExpiry _
  | .renewalIntervalExpiry | .settleEnd | .pinReset | .pinResetRelease | .openRow _ | .closeRow _
  | .closeAll | .readBurst _ | .writeBurst _ | .renewAll | .loadOptions | .openSettleEnd _
  | .closeSettleEnd _ | .fetchReturn _ | .writeDataEnd _ | .storeComplete _ | .renewalComplete
  | .optionLoadEnd | .slotGrant | .requestGrant | .heldPostAcceptance | .drainComplete
  | .opportunisticRenewal | .resettingEnd | .jobStart | .destinationLineBuild | .scanExamination
  | .compareChunk | .jobEnd | .busCycleEnd | .microsecondBoundary => true

end Sys2Proof
end

