-- ==== Sys2Proof/Decode.lean ====
section
/-! DEFINITION. The register window as a decoder of bus accesses (R181, R188): the position that A5 to
A0 select, the row of the table that an access there is, and the access that a row is. No row of
spec/opcode_table.json gives bits, so decodeTableWord answers none on every word. -/

namespace Sys2Proof

/-- The position that the six address lines select, by the table of R188. -/
def positionOf (a : BitVec 6) : Position :=
  let k := a.toNat
  if h : k < 0x08 then .data ⟨k, h⟩
  else if h : k < 0x18 then .param ⟨k - 0x08, by omega⟩
  else if k = 0x18 then .command
  else if k = 0x19 then .cmdStatus
  else if h : k < 0x22 then .result ⟨(k - 0x1A) % 8, by omega⟩
  else if k = 0x22 then .eventPending
  else if k = 0x23 then .eventEnable
  else if h : k < 0x2C then .streamEvent ⟨k - 0x24, by omega⟩
  else if h : k < 0x34 then .streamState ⟨k - 0x2C, by omega⟩
  else if k = 0x34 then .streamEventEnable
  else if k = 0x35 then .memoryStatus
  else if k = 0x36 then .poolFree
  else if k = 0x37 then .postCount
  else if k = 0x38 then .jobStatus
  else if k = 0x39 then .control
  else .unmapped ⟨(k - 0x3A) % 6, by omega⟩

/-- The address lines that select a position, by the same table. -/
def addressOf : Position → BitVec 6
  | .data n => BitVec.ofNat 6 n.val
  | .param i => BitVec.ofNat 6 (0x08 + i.val)
  | .command => 0x18#6
  | .cmdStatus => 0x19#6
  | .result i => BitVec.ofNat 6 (0x1A + i.val)
  | .eventPending => 0x22#6
  | .eventEnable => 0x23#6
  | .streamEvent n => BitVec.ofNat 6 (0x24 + n.val)
  | .streamState n => BitVec.ofNat 6 (0x2C + n.val)
  | .streamEventEnable => 0x34#6
  | .memoryStatus => 0x35#6
  | .poolFree => 0x36#6
  | .postCount => 0x37#6
  | .jobStatus => 0x38#6
  | .control => 0x39#6
  | .unmapped k => BitVec.ofNat 6 (0x3A + k.val)

/-- The row that a write of COMMAND with a code is (R163). -/
def commandOfCode (code : Byte) : Instr :=
  if code = 0x01#8 then .openRead
  else if code = 0x02#8 then .openWrite
  else if code = 0x03#8 then .seek
  else if code = 0x04#8 then .flush
  else if code = 0x05#8 then .close
  else if code = 0x06#8 then .queryStream
  else if code = 0x08#8 then .sync
  else if code = 0x10#8 then .submitJob
  else if code = 0x11#8 then .cancelJob
  else if code = 0x12#8 then .takeCompletion
  else if code = 0x20#8 then .setTiming
  else if code = 0x21#8 then .memStart
  else if code = 0x22#8 then .setClock
  else .badCommand code

/-- The row of the table that an access at a position is (R181, R188). -/
def rowOfAccess : Position → Access → Instr
  | .data n, .read => .dataPortRead n
  | .data n, .write v => .dataPortWrite n v
  | .command, .write code => commandOfCode code
  | .control, .write v => if v.getLsbD 0 then .softReset v else .registerWrite .control (.write v)
  | .eventPending, .write v => .eventPendingWrite v
  | .streamEvent n, .write v => .streamEventWrite n v
  | .eventEnable, .write v => .eventEnableWrite v
  | .streamEventEnable, .write v => .streamEventEnableWrite v
  | .unmapped k, a => .unmappedAccess k a
  | p, a => .registerWrite p a

/-- The bus access that a command is: its position and its direction, with the byte written; none for
an event that is no bus access. -/
def busAccessOf : Instr → Option (Position × Access)
  | .openRead => some (.command, .write 0x01#8)
  | .openWrite => some (.command, .write 0x02#8)
  | .seek => some (.command, .write 0x03#8)
  | .flush => some (.command, .write 0x04#8)
  | .close => some (.command, .write 0x05#8)
  | .queryStream => some (.command, .write 0x06#8)
  | .sync => some (.command, .write 0x08#8)
  | .submitJob => some (.command, .write 0x10#8)
  | .cancelJob => some (.command, .write 0x11#8)
  | .takeCompletion => some (.command, .write 0x12#8)
  | .setTiming => some (.command, .write 0x20#8)
  | .memStart => some (.command, .write 0x21#8)
  | .setClock => some (.command, .write 0x22#8)
  | .badCommand code => some (.command, .write code)
  | .softReset v => some (.control, .write v)
  | .dataPortRead n => some (.data n, .read)
  | .dataPortWrite n v => some (.data n, .write v)
  | .eventPendingWrite v => some (.eventPending, .write v)
  | .streamEventWrite n v => some (.streamEvent n, .write v)
  | .eventEnableWrite v => some (.eventEnable, .write v)
  | .streamEventEnableWrite v => some (.streamEventEnable, .write v)
  | .unmappedAccess k a => some (.unmapped k, a)
  | .registerWrite p a => some (p, a)
  | .strobeRemovedEarly | .stretchTimerExpiry | .lingerExpiry _ | .rowAgeExpiry _
  | .renewalIntervalExpiry | .settleEnd | .pinReset | .pinResetRelease | .openRow _ | .closeRow _
  | .closeAll | .readBurst _ | .writeBurst _ | .renewAll | .loadOptions | .openSettleEnd _
  | .closeSettleEnd _ | .fetchReturn _ | .writeDataEnd _ | .storeComplete _ | .renewalComplete
  | .optionLoadEnd | .slotGrant | .requestGrant | .heldPostAcceptance | .drainComplete
  | .opportunisticRenewal | .resettingEnd | .jobStart | .destinationLineBuild | .scanExamination
  | .compareChunk | .jobEnd | .busCycleEnd | .microsecondBoundary => none

/-- The command that a word spells by the table's bits: no row gives bits. -/
def decodeTableWord (_nbits _w : Nat) : Option Instr := none

end Sys2Proof
end

