-- ==== Sys2Proof/Config.lean ====
section
/-! DEFINITION. What the part fixes once and for all, and the free values the manual leaves open.
A free value is an opaque constant: nothing in Lean can see which value it is. -/

namespace Sys2Proof.Config

/-- The number of free slots that read-ahead claims may not consume (R25: "fixed at 10"). -/
def reserve : Nat := 10

/-- The places of the Post Queue (R75). -/
def postPlaces : Nat := 16

/-- The places of the job queue and of the completion queue (R142, R154). -/
def jobPlaces : Nat := 4

/-- The cap of the renewal debt (R133). -/
def debtCap : Nat := 8

/-- The debt from which renewal is urgent (R134). -/
def urgentDebt : Nat := 6

/-- The length of the SETTLE phase in microseconds (R128). -/
def settleMicroseconds : Nat := 300

/-- The microseconds of one unit of linger (R63). -/
def lingerUnit : Nat := 16

/-- What a byte of memory that nothing has written reads as. DESIGN CHOICE (log entry 4): the manual
gives the memory device no contents after power-on. Unsafe. -/
def blankByte : Byte := 0x00#8

/-- The slot bytes and every other value the manual gives no reset value for. DESIGN CHOICE (log
entry 5): a slot's bytes after the first power-on. Unsafe. -/
def blankLine : Line := Vector.replicate 16 0x00#8

/-- A bound on the same-event consequences that one event runs. DEDUCED (log entry 9): a reachable
state needs a few hundred at most. -/
def settleFuel : Nat := 4096

/-- FREE VALUE (log entry 6). Whether a marked byte of a store cut off by pin reset had been written:
the manual says only that such a store "may have written part of its line" (R83). The first
argument is the number of the draw, the second the byte's offset in its line. -/
opaque cutStoreByteWritten : Nat → Nat → Bool

/-- FREE VALUE (log entry 7). The keys that order the events falling in one and the same MCLK, which
the manual says may come in either order (R185, R54, R64, R91, R117, R158). The first argument is
the number of the draw, the second the event's place in the list the model makes. -/
opaque eventKey : Nat → Nat → Nat

end Sys2Proof.Config
end

