-- ==== Sys2Proof/Machine/State.lean ====
section
/-! DEFINITION. The state of the ZK316 as plain data, block by block as 00_scope.md lists the blocks,
the reasons a step can stop, and the state right after reset. What the manual gives as a value
computed from another (the free count, the presented requests, the held posts, READY and EMPTY, the
summaries, /INT) has its home in the value it is computed from (log entry 11). -/

namespace Sys2Proof.Machine

/-- Why the machine stops. -/
inductive Fault where
  /-- A fetch return or a store completion for a line at or above the fitted size, an address that
  does not exist (R1). Raised by FETCH_RETURN and STORE_COMPLETE. Safe: no window or job range that
  passed its check leads there (R99). -/
  | beyondFittedSize (line : Nat)
  deriving DecidableEq, Repr

/-- Why the model gives a command no meaning. -/
inductive Refusal where
  /-- The command has no meaning in this model yet. Raised by an arm of exec. Safe. -/
  | notModelled (mnemonic : String)
  deriving DecidableEq, Repr

/-! ### Host Bus Interface (11_host_bus_clock_and_register_window.md) -/

/-- The bus cycle in progress (R181, R182). A stretched cycle holds the stream, the direction with the
byte taken at its start, and the stretch timer in boundaries left. -/
inductive Bus where
  | idle
  | answered (drive : Option Byte)
  | stretched (n : StreamId) (access : Access) (left : Nat)
  deriving DecidableEq, Repr

/-- The timebase (R184, R186). -/
structure Clock where
  divisor : Nat
  nextDivisor : Option Nat
  clkCount : Nat
  deriving DecidableEq, Repr

/-! ### Command Port (09_commands_and_control.md) -/

/-- The result codes (R165). -/
inductive ResultCode where
  | ok | badCommand | badStream | wrongState | badParam | outOfWindow | notStarted | queueFull
  | noSuchJob | empty
  deriving DecidableEq, Repr

/-- The commands that may stay EXECUTING (R164). -/
inductive LongCommand where
  | seek | flush | close | memStart
  deriving DecidableEq, Repr

/-- The command in progress with its copy of the parameter block (R161, R162). -/
structure InProgress where
  command : LongCommand
  params : Vector Byte 16
  deriving DecidableEq, Repr

/-- The command state (R161). -/
inductive CommandState where
  | idle
  | executing (c : InProgress)
  | resetting
  deriving DecidableEq, Repr

/-- The Command Port (R161). -/
structure Port where
  param : Vector Byte 16
  result : Vector Byte 8
  lastResult : ResultCode
  state : CommandState
  deriving DecidableEq, Repr

/-! ### Stream Unit (01, 03, 04) -/

inductive EndPolicy where
  | stop | wrap
  deriving DecidableEq, Repr

/-- The wait policy, with the wait limit in microseconds under WAIT (R9, R10). -/
inductive WaitPolicy where
  | nowait
  | wait (limit : Nat)
  deriving DecidableEq, Repr

/-- What every open stream has: its window and its policies (section 1.3). -/
structure Window where
  first : Nat
  last : Nat
  endPolicy : EndPolicy
  waitPolicy : WaitPolicy
  deriving DecidableEq, Repr

inductive EntryState where
  | requested | inFlight | filled
  deriving DecidableEq, Repr

/-- An entry of a read-ahead queue (R35). -/
structure ReadEntry where
  slot : SlotId
  line : Nat
  state : EntryState
  deriving DecidableEq, Repr

/-- The context of an open read stream; EMPTY and READY follow from the head (R37). -/
structure ReadStream where
  window : Window
  cursor : Nat
  fetchCursor : Nat
  depth : Nat
  fill : Byte
  queue : List ReadEntry
  ended : Bool
  deriving DecidableEq, Repr

inductive BlockedReason where
  | postFull | noSlot
  deriving DecidableEq, Repr

/-- The states of an open write stream (R6). -/
inductive WriteState where
  | opened
  | blocked (reason : BlockedReason)
  | draining
  | ended
  deriving DecidableEq, Repr

/-- An assembly (R59). -/
structure Assembly where
  slot : SlotId
  line : Nat
  mask : ByteMask
  frozen : Bool
  deriving DecidableEq, Repr

/-- The context of an open write stream; the linger timer holds the boundaries left (R63). -/
structure WriteStream where
  window : Window
  cursor : Nat
  linger : Nat
  lingerTimer : Option Nat
  assembly : Option Assembly
  state : WriteState
  deriving DecidableEq, Repr

/-- A stream context (R4). -/
inductive Stream where
  | closed
  | read (r : ReadStream)
  | write (w : WriteStream)
  deriving DecidableEq, Repr

/-- The event flags of a stream number (R177). -/
structure StreamFlags where
  endOfWindow : Bool
  wrapped : Bool
  underrun : Bool
  overrun : Bool
  deriving DecidableEq, Repr

/-! ### Line Pool (02_the_line_pool.md) -/

/-- The owners of a slot (R21). -/
inductive Owner where
  | free
  | read (n : StreamId)
  | assembly (n : StreamId)
  | post
  | jobSource (k : Fin 2)
  | jobDest
  | discard
  deriving DecidableEq, Repr

structure Slot where
  owner : Owner
  bytes : Line
  deriving DecidableEq, Repr

inductive ClaimClass where
  | essential | readAhead
  deriving DecidableEq, Repr

/-- The owner kind a slot takes at the grant (R23, R27); the stream is the claimant. -/
inductive Purpose where
  | read
  | assembly
  | jobSource (k : Fin 2)
  | jobDest
  deriving DecidableEq, Repr

structure Claim where
  cls : ClaimClass
  purpose : Purpose
  deriving DecidableEq, Repr

/-- The pool: slots, the claim list (at most one claim for each of the nine claimants, the Move Engine
being claimant 8, with no order of arrival), and the grant position (R23). -/
structure Pool where
  slots : Vector Slot 48
  claims : Vector (Option Claim) 9
  grantPos : Fin 9
  deriving DecidableEq, Repr

/-! ### Post Queue (04_write_streams_and_the_post_queue.md) -/

inductive PostState where
  | waiting | retiring
  deriving DecidableEq, Repr

/-- An entry of the Post Queue (R75). -/
structure PostEntry where
  line : Nat
  mask : ByteMask
  slot : SlotId
  state : PostState
  tag : Bool
  deriving DecidableEq, Repr

/-- The Post Queue, oldest entry first, and its serve position; origin 8 is MOVE (R77). -/
structure PostQueue where
  entries : List PostEntry
  servePos : Fin 9
  deriving DecidableEq, Repr

/-! ### Bank Sequencer (06_the_bank_sequencer.md) -/

inductive BankState where
  | closed | opening | opened | reading | writing | recovering | closing
  deriving DecidableEq, Repr

inductive MemOp where
  | fetch | store
  deriving DecidableEq, Repr

/-- An owner record (R101). -/
structure OwnerRecord where
  position : Fin 10
  op : MemOp
  line : Nat
  slot : SlotId
  mask : ByteMask
  discard : Bool
  deriving DecidableEq, Repr

/-- A record of the bank table (R101). The interval running on the bank has `left` MCLK to go (R107);
the row age timer holds the boundaries left (R117). -/
structure Bank where
  state : BankState
  openRow : Option Nat
  owner : Option OwnerRecord
  left : Nat
  rowAge : Option Nat
  closeDue : Bool
  deriving DecidableEq, Repr

inductive MemoryState where
  | unstarted | starting | started
  deriving DecidableEq, Repr

inductive WideStep where
  | none | renewing | loading
  deriving DecidableEq, Repr

/-- A step of one bank that waits for the command pins (R106). -/
inductive BankStep where
  | openRow | closeRow | burst
  deriving DecidableEq, Repr

/-- The Sequencer (R101, R103). The data bus names the bank that holds it or for whose due burst it is
held (R106, R112). A CLOSE ALL that soft reset called for is held until it is issued, with the number of waiting
bank steps that go out before it (R106, R122). -/
structure Sequencer where
  banks : Vector Bank 4
  memory : MemoryState
  wide : WideStep
  wideLeft : Nat
  grantPos : Fin 10
  burstOrder : List BankId
  dataBus : Option BankId
  due : List (BankId × BankStep)
  resetCloseAll : Option Nat
  deriving DecidableEq, Repr

/-- The memory command pins in the present MCLK, true for high (R104). -/
structure CommandPins where
  msel : Bool
  mstb1 : Bool
  mstb0 : Bool
  mrw : Bool
  mbk : BitVec 2
  ma : BitVec 12
  deriving DecidableEq, Repr

/-- One word of a write burst on MDQ with MDM0 and MDM1 (R100). -/
structure DataWord where
  low : Byte
  high : Byte
  maskLow : Bool
  maskHigh : Bool
  deriving DecidableEq, Repr

/-- The memory pins: the step of this MCLK and the words a write burst still drives, the present one
first. -/
structure MemoryPins where
  command : CommandPins
  words : List DataWord
  deriving DecidableEq, Repr

/-! ### Renewal and start-up (07_renewal_and_memory_start_up.md) -/

inductive RowPolicy where
  | keepOpen | closeAfter
  deriving DecidableEq, Repr

/-- The timing set (R124). -/
structure TimingSet where
  openSettle : Nat
  closeSettle : Nat
  readLatency : Nat
  writeRecovery : Nat
  renewDuration : Nat
  optionLoad : Nat
  rowAgeLimit : Nat
  renewalInterval : Nat
  rowsFitted : Nat
  rowPolicy : RowPolicy
  deriving DecidableEq, Repr

/-- Where the start-up sequence stands (R128): SETTLE with its boundaries left, CLOSE before and after
its CLOSE ALL is issued, RENEW before and during its first or second RENEW ALL, LOAD before and
during its LOAD OPTIONS. -/
inductive StartUp where
  | none
  | settle (left : Nat)
  | closeCalled
  | closeSettling
  | renewCalled (second : Bool)
  | renewRunning (second : Bool)
  | loadCalled
  | loadRunning
  deriving DecidableEq, Repr

/-- The Renewal Timer and the renewal indicator (R133, R134). -/
structure Renewal where
  debt : Nat
  interval : Option Nat
  active : Bool
  deriving DecidableEq, Repr

/-! ### Move Engine (08_the_move_engine.md) -/

inductive StopCondition where
  | onMatch | onMismatch
  deriving DecidableEq, Repr

/-- What a job does, with the fields its kind has (R140). -/
inductive Work where
  | copy (a b : Nat)
  | fill (a : Nat) (value : Byte)
  | scan (a : Nat) (pattern mask : Byte) (stopOn : StopCondition)
  | compare (a b : Nat)
  deriving DecidableEq, Repr

structure Job where
  tag : Byte
  work : Work
  length : Nat
  deriving DecidableEq, Repr

inductive Direction where
  | ascending | descending
  deriving DecidableEq, Repr

inductive JobKind where
  | copy | fill | scan | compare
  deriving DecidableEq, Repr

inductive JobOutcome where
  | complete | found | notFound | equal | different | cancelled
  deriving DecidableEq, Repr

/-- The active job (R140). -/
structure ActiveJob where
  job : Job
  direction : Option Direction
  progress : Nat
  cancel : Bool
  outcome : Option (JobOutcome × Nat)
  deriving DecidableEq, Repr

/-- A completion record (R154). -/
structure CompletionRecord where
  tag : Byte
  kind : JobKind
  outcome : JobOutcome
  value : Nat
  deriving DecidableEq, Repr

inductive BufferState where
  | empty | requested | inFlight | filled
  deriving DecidableEq, Repr

/-- A source buffer (R145). -/
structure SourceBuffer where
  slot : SlotId
  line : Option Nat
  state : BufferState
  deriving DecidableEq, Repr

/-- The destination line under construction, or held as a post (R147). -/
structure DestLine where
  slot : SlotId
  line : Nat
  mask : ByteMask
  held : Bool
  deriving DecidableEq, Repr

/-- The engine's state (R143): a COMPLETING engine holds only the record that waits. -/
inductive EngineState where
  | idle
  | acquiring (j : ActiveJob)
  | running (j : ActiveJob)
  | completing (r : CompletionRecord)
  deriving DecidableEq, Repr

structure Engine where
  state : EngineState
  buffers : Vector (Option SourceBuffer) 2
  dest : Option DestLine
  jobs : List Job
  completions : List CompletionRecord
  deriving DecidableEq, Repr

/-! ### Event Unit (10_events_and_the_interrupt_line.md) -/

/-- The write-1-to-clear global flags (R173) and the two enables (R178). -/
structure Events where
  cmdDone : Bool
  cmdRefused : Bool
  portMisuse : Bool
  renewalLate : Bool
  syncDone : Bool
  enable : BitVec 7
  streamEnable : BitVec 4
  deriving DecidableEq, Repr

/-- The memory device's bytes: the cells that differ from the blank byte, by rising address. -/
abbrev Memory := List Host.Cell

/-- The whole part, the memory behind it, the queue of waiting commands, and the counter that free
values are drawn with (the model's own, log entry 16). -/
structure State where
  pending : List Instr
  resetLow : Bool
  bus : Bus
  clock : Clock
  port : Port
  streams : Vector Stream 8
  streamFlags : Vector StreamFlags 8
  pool : Pool
  post : PostQueue
  seq : Sequencer
  startUp : StartUp
  startClose : Option Nat
  timing : TimingSet
  renewal : Renewal
  engine : Engine
  events : Events
  pins : MemoryPins
  memory : Memory
  draws : Nat
  deriving DecidableEq, Repr

/-- Right after pin reset D is 25 and the count starts from zero (R184). -/
def Clock.reset : Clock := { divisor := 25, nextDivisor := none, clkCount := 0 }

/-- The Command Port after pin reset (R161). -/
def Port.reset : Port :=
  { param := Vector.replicate 16 0x00#8, result := Vector.replicate 8 0x00#8, lastResult := .ok,
    state := .idle }

def StreamFlags.none : StreamFlags :=
  { endOfWindow := false, wrapped := false, underrun := false, overrun := false }

/-- The Post Queue after pin reset (R83). -/
def PostQueue.reset : PostQueue := { entries := [], servePos := 8 }

/-- A bank after pin reset (R101). -/
def Bank.reset : Bank :=
  { state := .closed, openRow := none, owner := none, left := 0, rowAge := none, closeDue := false }

/-- The Sequencer after pin reset (R121). -/
def Sequencer.reset : Sequencer :=
  { banks := Vector.replicate 4 Bank.reset, memory := .unstarted, wide := .none, wideLeft := 0,
    grantPos := 9, burstOrder := [], dataBus := none, due := [], resetCloseAll := none }

/-- The pin-reset defaults of the timing set (R124). -/
def TimingSet.reset : TimingSet :=
  { openSettle := 3, closeSettle := 3, readLatency := 3, writeRecovery := 2, renewDuration := 10,
    optionLoad := 2, rowAgeLimit := 50, renewalInterval := 15, rowsFitted := 4096,
    rowPolicy := .keepOpen }

/-- The Renewal Timer after pin reset (R133). -/
def Renewal.reset : Renewal := { debt := 0, interval := none, active := false }

/-- The Move Engine after pin reset (R159). -/
def Engine.reset : Engine :=
  { state := .idle, buffers := Vector.replicate 2 none, dest := none, jobs := [], completions := [] }

/-- The Event Unit after pin reset (R180). -/
def Events.reset : Events :=
  { cmdDone := false, cmdRefused := false, portMisuse := false, renewalLate := false,
    syncDone := false, enable := 0#7, streamEnable := 0#4 }

/-- IDLE on the memory pins (R104, R187). -/
def CommandPins.idle : CommandPins :=
  { msel := true, mstb1 := true, mstb0 := true, mrw := true, mbk := 0#2, ma := 0#12 }

def MemoryPins.reset : MemoryPins := { command := CommandPins.idle, words := [] }

/-- The pin-reset values of every block (R187), over the slot bytes, memory contents and draw counter
that a pin reset leaves as they are (R31, R98). -/
def State.pinResetValues (slots : Vector Slot 48) (memory : Memory) (draws : Nat) : State :=
  { pending := [], resetLow := false, bus := .idle, clock := Clock.reset, port := Port.reset,
    streams := Vector.replicate 8 .closed, streamFlags := Vector.replicate 8 StreamFlags.none,
    pool := { slots := slots, claims := Vector.replicate 9 none, grantPos := 8 },
    post := PostQueue.reset, seq := Sequencer.reset, startUp := .none, startClose := none,
    timing := TimingSet.reset, renewal := Renewal.reset, engine := Engine.reset,
    events := Events.reset, pins := MemoryPins.reset, memory := memory, draws := draws }

/-- The machine right after the first pin reset, with an empty queue. The slots' bytes and the
memory's contents are DESIGN CHOICES (log entries 4 and 5). -/
def State.reset : State :=
  State.pinResetValues (Vector.replicate 48 { owner := .free, bytes := Config.blankLine }) [] 0

end Sys2Proof.Machine
end

