-- ==== Sys2Proof/Machine/Ops.lean ====
section
/-! DEFINITION. The named operations over the state: addresses and lines, memory, the setters of each
block, the slots of the pool, the cyclic searches, and the views of a stream's state. -/

namespace Sys2Proof.Machine

/-! ### Addresses (R2, R99) -/

/-- The line address of a byte: its address with the low four bits cleared (R2). -/
def lineOf (a : Nat) : Nat := a / 16 * 16

/-- The byte within the line (R99). -/
def offsetOf (a : Nat) : Nat := a % 16

/-- The bank: address bits 5 to 4 (R99). -/
def bankOf (a : Nat) : BankId := ⟨a / 16 % 4, Nat.mod_lt _ (by decide)⟩

/-- The line within the row: address bits 11 to 6 (R99). -/
def lineInRow (a : Nat) : Nat := a / 64 % 64

/-- The row: address bits 23 to 12 (R99). -/
def rowOf (a : Nat) : Nat := a / 4096

/-- The fitted size (R1): 1024, 2048 and 4096 rows give 4, 8 and 16 MiB. -/
def TimingSet.fittedSize (t : TimingSet) : Nat := t.rowsFitted * 4096

/-! ### Memory -/

/-- The byte at an address; an unlisted address reads as the blank byte. -/
def Memory.read : Memory → Nat → Byte
  | [], _ => Config.blankByte
  | (k, v) :: rest, a => if k = a then v else Memory.read rest a

/-- The memory with one byte written, in canonical form. -/
def Memory.write : Memory → Nat → Byte → Memory
  | [], a, v => if v = Config.blankByte then [] else [(a, v)]
  | (k, w) :: rest, a, v =>
    if a < k then (if v = Config.blankByte then (k, w) :: rest else (a, v) :: (k, w) :: rest)
    else if a = k then (if v = Config.blankByte then rest else (a, v) :: rest)
    else (k, w) :: Memory.write rest a v

/-- Every address listed is at least `low`, addresses rise strictly, and no cell holds the blank
byte. -/
def Memory.wfFrom : Nat → Memory → Bool
  | _, [] => true
  | low, (k, v) :: rest => decide (low ≤ k) && (v != Config.blankByte) && Memory.wfFrom (k + 1) rest

/-- The canonical form. -/
def Memory.wf (m : Memory) : Bool := Memory.wfFrom 0 m

/-- The line of memory at a line address. -/
def Memory.readLine (m : Memory) (line : Nat) : Line :=
  Vector.ofFn fun i => Memory.read m (line + i.val)

/-- The store of the marked bytes at offsets below `k` (R79). -/
def Memory.writeUpTo (m : Memory) (line : Nat) (mask : ByteMask) (bytes : Line) : Nat → Memory
  | 0 => m
  | k + 1 =>
    let before := Memory.writeUpTo m line mask bytes k
    if h : k < 16 then
      if mask.getLsbD k then Memory.write before (line + k) bytes[k] else before
    else before

/-- The store of a line under its byte mask; the other bytes of the line are left (R79). -/
def Memory.writeLine (m : Memory) (line : Nat) (mask : ByteMask) (bytes : Line) : Memory :=
  Memory.writeUpTo m line mask bytes 16

/-! ### Lines -/

/-- The bytes of `new` under the mask laid over `base` (R88, R90). -/
def overlay (base new : Line) (mask : ByteMask) : Line :=
  Vector.ofFn fun i => if mask.getLsbD i.val then new[i] else base[i]

/-- The number of bytes a mask marks. -/
def maskCount (mask : ByteMask) : Nat :=
  ((List.range 16).filter fun i => mask.getLsbD i).length

/-- The mask of the offsets from `lo` to `hi`. -/
def maskRange (lo hi : Nat) : ByteMask :=
  BitVec.ofFnLE fun i : Fin 16 => decide (lo ≤ i.val ∧ i.val ≤ hi)

/-- The byte at an offset of a line. -/
def Line.at (l : Line) (a : Nat) : Byte := l[offsetOf a]'(Nat.mod_lt _ (by decide))

/-! ### Cyclic order -/

/-- The members of a cyclic order, starting after a position and ending at it (R23, R77, R110). -/
def cyclicAfter {n : Nat} (pos : Fin n) : List (Fin n) :=
  (List.range n).map fun k => ⟨(pos.val + 1 + k) % n, Nat.mod_lt _ (Nat.lt_of_le_of_lt (Nat.zero_le _) pos.isLt)⟩

/-! ### Setters -/

def State.withBus (s : State) (b : Bus) : State := { s with bus := b }
def State.withClock (s : State) (c : Clock) : State := { s with clock := c }
def State.withPort (s : State) (p : Port) : State := { s with port := p }
def State.withPool (s : State) (p : Pool) : State := { s with pool := p }
def State.withPost (s : State) (p : PostQueue) : State := { s with post := p }
def State.withSeq (s : State) (q : Sequencer) : State := { s with seq := q }
def State.withStartUp (s : State) (p : StartUp) : State := { s with startUp := p }
def State.withStartClose (s : State) (c : Option Nat) : State := { s with startClose := c }
def State.withTiming (s : State) (t : TimingSet) : State := { s with timing := t }
def State.withRenewal (s : State) (r : Renewal) : State := { s with renewal := r }
def State.withEngine (s : State) (e : Engine) : State := { s with engine := e }
def State.withEvents (s : State) (e : Events) : State := { s with events := e }
def State.withPins (s : State) (p : MemoryPins) : State := { s with pins := p }
def State.withMemory (s : State) (m : Memory) : State := { s with memory := m }
def State.withPending (s : State) (q : List Instr) : State := { s with pending := q }
def State.withStreamFlags (s : State) (f : Vector StreamFlags 8) : State := { s with streamFlags := f }
def State.withDraws (s : State) (n : Nat) : State := { s with draws := n }

/-- Stream n's context replaced. -/
def State.setStream (s : State) (n : StreamId) (c : Stream) : State :=
  { s with streams := s.streams.set n.val c n.isLt }

/-- Stream n's event flags replaced. -/
def State.setFlags (s : State) (n : StreamId) (f : StreamFlags) : State :=
  { s with streamFlags := s.streamFlags.set n.val f n.isLt }

/-- Slot k replaced. -/
def State.setSlot (s : State) (k : SlotId) (x : Slot) : State :=
  s.withPool { s.pool with slots := s.pool.slots.set k.val x k.isLt }

/-- Bank b's record replaced. -/
def State.setBank (s : State) (b : BankId) (r : Bank) : State :=
  s.withSeq { s.seq with banks := s.seq.banks.set b.val r b.isLt }

/-- A change of the Sequencer's values. -/
def State.mapSeq (s : State) (f : Sequencer → Sequencer) : State := s.withSeq (f s.seq)

/-! ### Slots (R21, R22, R28, R29) -/

/-- Slot k passes to an owner. A transfer (R29) is this with an owner other than FREE. -/
def State.own (s : State) (k : SlotId) (o : Owner) : State :=
  s.setSlot k { s.pool.slots[k] with owner := o }

/-- Slot k is released to FREE (R28). -/
def State.release (s : State) (k : SlotId) : State := s.own k .free

/-- The bytes of slot k. -/
def State.bytesOf (s : State) (k : SlotId) : Line := s.pool.slots[k].bytes

/-- The bytes of slot k replaced; its owner stays. -/
def State.fillSlot (s : State) (k : SlotId) (l : Line) : State :=
  s.setSlot k { s.pool.slots[k] with bytes := l }

/-- The free count (R22). -/
def Pool.freeCount (p : Pool) : Nat := (p.slots.toList.filter fun x => x.owner = .free).length

/-- The slot a grant takes: the lowest-numbered FREE slot. DESIGN CHOICE (log entry 10). -/
def Pool.firstFree (p : Pool) : Option SlotId :=
  (List.finRange 48).find? fun k => p.slots[k].owner = .free

/-! ### Stream views -/

/-- The head of a read-ahead queue is FILLED (R37). -/
def ReadStream.headFilled (r : ReadStream) : Bool :=
  match r.queue with
  | e :: _ => e.state == .filled
  | [] => false

/-- READY: not ENDED and the head FILLED (R37). -/
def ReadStream.ready (r : ReadStream) : Bool := !r.ended && r.headFilled

/-- One more than the last address of a window. -/
def Window.fin (w : Window) : Nat := w.last + 1

/-- The held count of a stream (R18, R20). -/
def Stream.heldCount : Stream → Nat
  | .closed => 0
  | .read r => r.queue.length
  | .write w => match w.assembly with
    | some a => maskCount a.mask
    | none => 0

/-- The cycle of a write to stream n is being stretched, with the byte taken at its start. -/
def Bus.waitingWrite (b : Bus) (n : StreamId) : Option Byte :=
  match b with
  | .stretched m (.write v) _ => if m = n then some v else none
  | .stretched _ .read _ => none
  | .answered _ => none
  | .idle => none

/-- The cycle of a read of stream n is being stretched. -/
def Bus.waitingRead (b : Bus) (n : StreamId) : Bool :=
  match b with
  | .stretched m .read _ => decide (m = n)
  | .stretched _ (.write _) _ => false
  | .answered _ => false
  | .idle => false

/-- A bus access can begin: /RESET is high and no cycle is stretched (R181, R48, R68). -/
def State.accessCanBegin (s : State) : Bool :=
  !s.resetLow && (match s.bus with
    | .stretched _ _ _ => false
    | .answered _ => true
    | .idle => true)

/-- /WAIT is asserted (R182). -/
def State.waitAsserted (s : State) : Bool :=
  match s.bus with
  | .stretched _ _ _ => true
  | .answered _ => false
  | .idle => false

/-- What the part drives on D7 to D0, if anything (R181). -/
def State.dataLines (s : State) : Option Byte :=
  match s.bus with
  | .answered d => d
  | .stretched _ _ _ => none
  | .idle => none

/-- A change made only while /RESET is high (R121, R187). -/
def whileRunning (f : State → State) (s : State) : State := if s.resetLow then s else f s

/-! ### Bank steps waiting for the command pins (R106) -/

/-- Bank b has a step waiting for the command pins. -/
def Sequencer.hasDue (q : Sequencer) (b : BankId) : Bool := q.due.any fun d => d.1 = b

/-- A step of bank b becomes due; a bank has at most one step waiting. -/
def State.addDue (s : State) (b : BankId) (st : BankStep) : State :=
  if s.seq.hasDue b then s else s.withSeq { s.seq with due := s.seq.due ++ [(b, st)] }

/-- The fetch that holds this bank into this slot gets the discard mark (R118). -/
def Bank.markDiscard (slot : SlotId) (r : Bank) : Bank :=
  match r.owner with
  | some o => if o.op = .fetch ∧ o.slot = slot then { r with owner := some { o with discard := true } } else r
  | none => r

/-- A fetch of a line into a slot is let go of while in flight: the owner record of its bank gets the
discard mark and the slot passes to DISCARD (R118, R29). -/
def State.discardFetch (s : State) (line : Nat) (slot : SlotId) : State :=
  (s.setBank (bankOf line) (Bank.markDiscard slot s.seq.banks[bankOf line])).own slot .discard

/-- IDLE on the command pins (R104): an MCLK in which no step is issued. -/
def State.idlePins (s : State) : State := s.withPins { s.pins with command := CommandPins.idle }

end Sys2Proof.Machine
end

