-- ==== Sys2Proof/Machine/Operands.lean ====
section
/-! DEFINITION. The operands of the commands: the fields of the parameter block by the layouts of R167,
their codes, and the checks of R11, R125, R141 and R186 that look at the fields alone. A field
holding a code with no meaning gives none, which its command answers with BAD_PARAM. -/

namespace Sys2Proof.Machine

/-- The sixteen bytes a command captured. -/
abbrev Params := Vector Byte 16

/-- A one-byte field as a number. -/
def Params.byteAt (p : Params) (i : Fin 16) : Nat := p[i].toNat

/-- A three-byte field, low byte first (R167, Conventions). -/
def Params.addressAt (p : Params) (i : Fin 14) : Nat :=
  p[i.val].toNat + 256 * p[i.val + 1].toNat + 65536 * p[i.val + 2].toNat

/-- The three bytes of a 24-bit number, low byte first; 16,777,216 has no 24-bit form and gives zeros
(R18). -/
def byteOfNumber (a k : Nat) : Byte := BitVec.ofNat 8 (a / 256 ^ k)

/-- The stream number of PARAM0, if it is 0 to 7. -/
def Params.stream (p : Params) : Option StreamId :=
  if h : p.byteAt 0 < 8 then some ⟨p.byteAt 0, h⟩ else none

/-- PARAM1 to PARAM3: the target of SEEK. -/
def Params.target (p : Params) : Nat := p.addressAt 1

/-- The end policy codes (R167). -/
def Params.endPolicy (p : Params) : Option EndPolicy :=
  if p.byteAt 7 = 0 then some .stop else if p.byteAt 7 = 1 then some .wrap else none

/-- The wait policy codes; under WAIT the wait limit is 1 to 255, under NOWAIT it is ignored (R167,
R11). -/
def Params.waitPolicy (p : Params) : Option WaitPolicy :=
  if p.byteAt 8 = 0 then some .nowait
  else if p.byteAt 8 = 1 then (if 1 ≤ p.byteAt 9 then some (.wait (p.byteAt 9)) else none)
  else none

/-- The window and policies of an OPEN (R9, R10), if the policies have a meaning. -/
def Params.window (p : Params) : Option Window :=
  match p.endPolicy, p.waitPolicy with
  | some e, some w => some { first := p.addressAt 1, last := p.addressAt 4, endPolicy := e, waitPolicy := w }
  | _, _ => none

/-- The depth of OPEN_READ, 1 to 8. -/
def Params.depth (p : Params) : Option Nat :=
  if 1 ≤ p.byteAt 10 ∧ p.byteAt 10 ≤ 8 then some (p.byteAt 10) else none

/-- The stop condition codes (R167). -/
def Params.stopCondition (p : Params) : Option StopCondition :=
  if p.byteAt 14 = 0 then some .onMatch else if p.byteAt 14 = 1 then some .onMismatch else none

/-- The work of SUBMIT_JOB by its kind code (R141, R167); parameters a kind does not use are
ignored. -/
def Params.work (p : Params) : Option Work :=
  if p.byteAt 1 = 1 then some (.copy (p.addressAt 2) (p.addressAt 5))
  else if p.byteAt 1 = 2 then some (.fill (p.addressAt 2) p[11])
  else if p.byteAt 1 = 3 then
    (match p.stopCondition with
    | some c => some (.scan (p.addressAt 2) p[12] p[13] c)
    | none => none)
  else if p.byteAt 1 = 4 then some (.compare (p.addressAt 2) (p.addressAt 5))
  else none

/-- The job of SUBMIT_JOB, if its kind, length and stop condition pass check 1 of R141. -/
def Params.job (p : Params) : Option Job :=
  match p.work with
  | some w => if p.addressAt 8 = 0 then none else some { tag := p[0], work := w, length := p.addressAt 8 }
  | none => none

/-- A byte within a range. -/
def Params.inRange (p : Params) (i : Fin 16) (lo hi : Nat) : Bool :=
  decide (lo ≤ p.byteAt i ∧ p.byteAt i ≤ hi)

/-- The codes of rows fitted (R167). -/
def Params.rowsFitted (p : Params) : Option Nat :=
  if p.byteAt 8 = 1 then some 1024
  else if p.byteAt 8 = 2 then some 2048
  else if p.byteAt 8 = 3 then some 4096
  else none

/-- The codes of the row policy (R167). -/
def Params.rowPolicy (p : Params) : Option RowPolicy :=
  if p.byteAt 9 = 0 then some .keepOpen else if p.byteAt 9 = 1 then some .closeAfter else none

/-- The timing set of SET_TIMING, if every member lies in its range (R124, R125). -/
def Params.timing (p : Params) : Option TimingSet :=
  match p.rowsFitted, p.rowPolicy with
  | some rows, some policy =>
    if p.inRange 0 1 15 && p.inRange 1 1 15 && p.inRange 2 2 3 && p.inRange 3 1 7 &&
        p.inRange 4 2 31 && p.inRange 5 1 7 && p.inRange 6 1 100 && p.inRange 7 1 63 then
      some { openSettle := p.byteAt 0, closeSettle := p.byteAt 1, readLatency := p.byteAt 2,
             writeRecovery := p.byteAt 3, renewDuration := p.byteAt 4, optionLoad := p.byteAt 5,
             rowAgeLimit := p.byteAt 6, renewalInterval := p.byteAt 7, rowsFitted := rows,
             rowPolicy := policy }
    else none
  | _, _ => none

/-- The divisor of SET_CLOCK, 4 to 100 (R186). -/
def Params.divisor (p : Params) : Option Nat :=
  if 4 ≤ p.byteAt 0 ∧ p.byteAt 0 ≤ 100 then some (p.byteAt 0) else none

/-! ### Codes shown to the processor -/

/-- The result codes (R165). -/
def ResultCode.code : ResultCode → Nat
  | .ok => 0
  | .badCommand => 1
  | .badStream => 2
  | .wrongState => 3
  | .badParam => 4
  | .outOfWindow => 5
  | .notStarted => 6
  | .queueFull => 7
  | .noSuchJob => 8
  | .empty => 9

/-- The state codes of R19. -/
def Stream.stateCode : Stream → Byte
  | .closed => 0x00#8
  | .read r => if r.ended then 0x13#8 else if r.headFilled then 0x12#8 else 0x11#8
  | .write w => match w.state with
    | .opened => 0x21#8
    | .blocked .postFull => 0x22#8
    | .blocked .noSlot => 0x23#8
    | .draining => 0x24#8
    | .ended => 0x25#8

/-- Bits 7 to 5 of STREAM_STATEn (R188). -/
def Stream.packedState : Stream → Nat
  | .closed => 0
  | .read r => if r.ended then 3 else if r.headFilled then 2 else 1
  | .write w => match w.state with
    | .opened => 4
    | .blocked _ => 5
    | .draining => 6
    | .ended => 7

/-- STREAM_STATEn (R20, R188). -/
def Stream.stateByte (c : Stream) : Byte := BitVec.ofNat 8 (c.packedState * 32 + c.heldCount)

/-- The kind codes (R154). -/
def JobKind.code : JobKind → Nat
  | .copy => 1
  | .fill => 2
  | .scan => 3
  | .compare => 4

/-- The outcome codes (R154). -/
def JobOutcome.code : JobOutcome → Nat
  | .complete => 1
  | .found => 2
  | .notFound => 3
  | .equal => 4
  | .different => 5
  | .cancelled => 6

/-- The kind of a job's work. -/
def Work.kind : Work → JobKind
  | .copy _ _ => .copy
  | .fill _ _ => .fill
  | .scan _ _ _ _ => .scan
  | .compare _ _ => .compare

end Sys2Proof.Machine
end

