-- ==== Sys2Proof/Machine/Flags.lean ====
section
/-! DEFINITION. The Event Unit (10_events_and_the_interrupt_line.md): setting and clearing the two tiers
of flags, the two summaries, the bytes the flag positions show, and /INT. -/

namespace Sys2Proof.Machine

/-! ### Setting -/

/-- A change of the global flags. -/
def State.mapEvents (s : State) (f : Events → Events) : State := s.withEvents (f s.events)

def Events.setCmdDone (e : Events) : Events := { e with cmdDone := true }
def Events.setCmdRefused (e : Events) : Events := { e with cmdRefused := true }
def Events.setPortMisuse (e : Events) : Events := { e with portMisuse := true }
def Events.setRenewalLate (e : Events) : Events := { e with renewalLate := true }
def Events.setSyncDone (e : Events) : Events := { e with syncDone := true }

/-- A change of stream n's event flags. -/
def State.mapFlags (s : State) (n : StreamId) (f : StreamFlags → StreamFlags) : State :=
  s.setFlags n (f s.streamFlags[n])

def StreamFlags.setEnd (f : StreamFlags) : StreamFlags := { f with endOfWindow := true }
def StreamFlags.setWrapped (f : StreamFlags) : StreamFlags := { f with wrapped := true }
def StreamFlags.setUnderrun (f : StreamFlags) : StreamFlags := { f with underrun := true }
def StreamFlags.setOverrun (f : StreamFlags) : StreamFlags := { f with overrun := true }

/-! ### Clearing -/

/-- A write of EVENT_PENDING clears each write-1-to-clear flag written as 1 (R174). -/
def Events.writeOneToClear (e : Events) (v : Byte) : Events :=
  { e with
    cmdDone := e.cmdDone && !v.getLsbD 0
    cmdRefused := e.cmdRefused && !v.getLsbD 1
    portMisuse := e.portMisuse && !v.getLsbD 4
    renewalLate := e.renewalLate && !v.getLsbD 5
    syncDone := e.syncDone && !v.getLsbD 6 }

/-- A write of STREAM_EVENTn clears each flag written as 1 (R177). -/
def StreamFlags.writeOneToClear (f : StreamFlags) (v : Byte) : StreamFlags :=
  { endOfWindow := f.endOfWindow && !v.getLsbD 0
    wrapped := f.wrapped && !v.getLsbD 1
    underrun := f.underrun && !v.getLsbD 2
    overrun := f.overrun && !v.getLsbD 3 }

/-- The end of RESETTING clears every write-1-to-clear flag and keeps the enables (R171). -/
def Events.clearFlags (e : Events) : Events :=
  { e with cmdDone := false, cmdRefused := false, portMisuse := false, renewalLate := false, syncDone := false }

/-! ### Bytes -/

/-- A byte from its eight bits, bit 0 first. -/
def byteOfBits (b0 b1 b2 b3 b4 b5 b6 b7 : Bool) : Byte :=
  BitVec.ofBool b7 ++ BitVec.ofBool b6 ++ BitVec.ofBool b5 ++ BitVec.ofBool b4 ++
    BitVec.ofBool b3 ++ BitVec.ofBool b2 ++ BitVec.ofBool b1 ++ BitVec.ofBool b0

/-- STREAM_EVENTn (R177). -/
def StreamFlags.byte (f : StreamFlags) : Byte :=
  byteOfBits f.endOfWindow f.wrapped f.underrun f.overrun false false false false

/-- STREAM: some stream, open or CLOSED, has a flag set whose enable is set (R175). -/
def State.streamSummary (s : State) : Bool :=
  s.streamFlags.toList.any fun f => f.byte.setWidth 4 &&& s.events.streamEnable != 0#4

/-- JOB: the completion queue holds a record (R176); 0 while /RESET is low, like every flag (R179). -/
def State.jobSummary (s : State) : Bool := !s.resetLow && !s.engine.completions.isEmpty

/-- EVENT_PENDING (R173). -/
def State.eventPending (s : State) : Byte :=
  byteOfBits s.events.cmdDone s.events.cmdRefused s.streamSummary s.jobSummary s.events.portMisuse
    s.events.renewalLate s.events.syncDone false

/-- EVENT_ENABLE, bit 7 reading 0 (R178). -/
def State.eventEnableByte (s : State) : Byte := s.events.enable.setWidth 8

/-- STREAM_EVENT_ENABLE, bits 7 to 4 reading 0 (R178). -/
def State.streamEventEnableByte (s : State) : Byte := s.events.streamEnable.setWidth 8

/-- /INT is asserted: some global flag is pending and enabled (R179); not while /RESET is low. -/
def State.intAsserted (s : State) : Bool :=
  !s.resetLow && (s.eventPending &&& s.eventEnableByte != 0#8)

end Sys2Proof.Machine
end

