-- ==== Sys2Proof/Machine/ReadStreams.lean ====
section
/-! DEFINITION. Read streams (03_read_streams.md): the fetch order and the fetch need, letting entries
go, delivering bytes, SEEK and CLOSE of a read stream, and a line's return into an entry. -/

namespace Sys2Proof.Machine

/-! ### The fetch cursor and the fetch need -/

/-- The line after the fetch cursor in the fetch order: under WRAP the line of first follows the line
of last (R15). -/
def ReadStream.nextFetch (r : ReadStream) : Nat :=
  match r.window.endPolicy with
  | .wrap => if r.fetchCursor = lineOf r.window.last then lineOf r.window.first else r.fetchCursor + 16
  | .stop => r.fetchCursor + 16

/-- The queue holds a REQUESTED entry (R38). -/
def ReadStream.hasRequested (r : ReadStream) : Bool := r.queue.any fun e => e.state = .requested

/-- Under STOP the fetch cursor is not beyond the line of last; under WRAP it never is (R38). -/
def ReadStream.withinWindow (r : ReadStream) : Bool :=
  match r.window.endPolicy with
  | .wrap => true
  | .stop => decide (r.fetchCursor ≤ lineOf r.window.last)

/-- The fetch need (R38). -/
def ReadStream.fetchNeed (r : ReadStream) : Bool :=
  !r.ended && decide (r.queue.length < r.depth) && !r.hasRequested && r.withinWindow

/-- The class of the claim of a stream with a fetch need (R39). -/
def ReadStream.claimClass (r : ReadStream) : ClaimClass :=
  if r.queue.isEmpty then .essential else .readAhead

/-- The entry made at a grant, for the line at the fetch cursor (R40). -/
def ReadStream.append (r : ReadStream) (slot : SlotId) : ReadStream :=
  { r with
    queue := r.queue ++ [{ slot := slot, line := r.fetchCursor, state := .requested }]
    fetchCursor := r.nextFetch }

/-! ### Letting entries go (R44) -/

/-- An entry removed from a queue is released according to its state (R44). -/
def State.releaseEntry (s : State) (e : ReadEntry) : State :=
  match e.state with
  | .filled => s.release e.slot
  | .requested => s.release e.slot
  | .inFlight => s.discardFetch e.line e.slot

def State.releaseEntries (s : State) (es : List ReadEntry) : State := es.foldl State.releaseEntry s

/-! ### Delivery (R45, R46) -/

/-- The byte at the cursor, from the head entry's slot (R45). -/
def State.headByte (s : State) (r : ReadStream) : Byte :=
  match r.queue with
  | e :: _ => Line.at (s.bytesOf e.slot) r.cursor
  | [] => r.fill

/-- The head, if the next byte to deliver lies in a line other than the head's (R45, step 1). -/
def ReadStream.leaving (r : ReadStream) (next : Nat) : List ReadEntry :=
  match r.queue with
  | e :: _ => if e.line = lineOf next then [] else [e]
  | [] => []

/-- The stream with its cursor moved and the head it leaves removed. -/
def ReadStream.moveTo (r : ReadStream) (next : Nat) : ReadStream :=
  { r with cursor := next, queue := r.queue.drop (r.leaving next).length }

/-- The cursor advances by one after a delivery, and the end policy applies at the end (R12 to R14,
R45, R46). -/
def State.advanceRead (s : State) (n : StreamId) (r : ReadStream) : State :=
  if r.cursor + 1 = r.window.fin then
    match r.window.endPolicy with
    | .stop =>
      ((s.releaseEntries r.queue).setStream n
        (.read { r with cursor := r.cursor + 1, queue := [], ended := true })).mapFlags n StreamFlags.setEnd
    | .wrap =>
      ((s.releaseEntries (r.leaving r.window.first)).setStream n
        (.read (r.moveTo r.window.first))).mapFlags n StreamFlags.setWrapped
  else (s.releaseEntries (r.leaving (r.cursor + 1))).setStream n (.read (r.moveTo (r.cursor + 1)))

/-- A read of a READY stream is answered with the byte at the cursor (R45). -/
def State.deliver (s : State) (n : StreamId) (r : ReadStream) : State :=
  (s.advanceRead n r).withBus (.answered (some (s.headByte r)))

/-- The answer with the fill byte, which sets UNDERRUN and moves nothing (R47, R49). -/
def State.underrun (s : State) (n : StreamId) (r : ReadStream) : State :=
  (s.withBus (.answered (some r.fill))).mapFlags n StreamFlags.setUnderrun

/-- A read of DATAn of an open read stream that is not READY: the fill byte with UNDERRUN when it is
ENDED or under NOWAIT, else a stretched cycle under the wait limit (R47, R49). -/
def State.starvedRead (s : State) (n : StreamId) (r : ReadStream) : State :=
  if r.ended then s.underrun n r
  else match r.window.waitPolicy with
    | .nowait => s.underrun n r
    | .wait limit => s.withBus (.stretched n .read limit)

/-- A stretched read of stream n is answered in the event that makes the stream READY (R42, R47). -/
def State.answerWaitingRead (s : State) (n : StreamId) : State :=
  if s.bus.waitingRead n then
    match s.streams[n] with
    | .read r => if r.ready then s.deliver n r else s
    | .write _ => s
    | .closed => s
  else s

/-! ### A fetch's grant and return (R41, R42) -/

/-- The entry with this slot in one state passes to the next. -/
def ReadStream.passEntry (r : ReadStream) (slot : SlotId) (was next : EntryState) : ReadStream :=
  { r with queue := r.queue.map fun e => if e.slot = slot ∧ e.state = was then { e with state := next } else e }

/-- At the Sequencer's grant the entry becomes IN_FLIGHT (R41). -/
def State.entryInFlight (s : State) (n : StreamId) (slot : SlotId) : State :=
  match s.streams[n] with
  | .read r => s.setStream n (.read (r.passEntry slot .requested .inFlight))
  | .write _ => s
  | .closed => s

/-- At the fetch's return the merged line fills the entry's slot and the entry becomes FILLED; a
stretched read is answered in the same event (R42, R47). -/
def State.entryReturn (s : State) (n : StreamId) (slot : SlotId) (line : Line) : State :=
  match s.streams[n] with
  | .read r =>
    ((s.fillSlot slot line).setStream n (.read (r.passEntry slot .inFlight .filled))).answerWaitingRead n
  | .write _ => s
  | .closed => s

/-! ### SEEK and CLOSE (R51, R52, R55) -/

/-- The entries before the first one for a line: what a retained seek lets go; all of them when there
is none (R51, R52). -/
def ReadStream.before (r : ReadStream) (line : Nat) : List ReadEntry :=
  r.queue.takeWhile fun e => e.line ≠ line

/-- The first entry for a line and every entry after it. -/
def ReadStream.from (r : ReadStream) (line : Nat) : List ReadEntry :=
  r.queue.dropWhile fun e => e.line ≠ line

/-- The context after a SEEK to t: a retained seek keeps the fetch cursor, a full flush sets it to the
line of t (R51, R52). -/
def ReadStream.seekTo (r : ReadStream) (t : Nat) : ReadStream :=
  { r with
    cursor := t
    queue := r.from (lineOf t)
    fetchCursor := if (r.from (lineOf t)).isEmpty then lineOf t else r.fetchCursor
    ended := false }

def State.seekRead (s : State) (n : StreamId) (r : ReadStream) (t : Nat) : State :=
  (s.releaseEntries (r.before (lineOf t))).setStream n (.read (r.seekTo t))

/-- CLOSE of a read stream (R55). -/
def State.closeRead (s : State) (n : StreamId) (r : ReadStream) : State :=
  (s.releaseEntries r.queue).setStream n .closed

end Sys2Proof.Machine
end

