-- ==== Sys2Proof/Machine/PostQueue.lean ====
section
/-! DEFINITION. The Post Queue (04, sections 4.6 to 4.8) and its part in coherence (05): acceptance,
patch-on-accept, merge-on-return, the retirement grant, and SYNC. -/

namespace Sys2Proof.Machine

/-- An entry is WAITING and for a line. -/
def PostEntry.waitsFor (e : PostEntry) (line : Nat) : Bool := decide (e.line = line ∧ e.state = .waiting)

/-- The WAITING entry for a line (R75: at most one). -/
def PostQueue.waitingFor (q : PostQueue) (line : Nat) : Option PostEntry :=
  q.entries.find? fun e => e.waitsFor line

/-- The oldest WAITING entry (R78). -/
def PostQueue.oldestWaiting (q : PostQueue) : Option PostEntry :=
  q.entries.find? fun e => e.state = .waiting

/-- The queue is full: the priority indication of its request (R78). -/
def PostQueue.full (q : PostQueue) : Bool := decide (Config.postPlaces ≤ q.entries.length)

/-! ### Patch-on-accept (R88) -/

/-- A FILLED entry for the line takes the incoming bytes under the mask; any other entry is passed
over. -/
def State.patchEntry (line : Nat) (mask : ByteMask) (bytes : Line) (s : State) (e : ReadEntry) : State :=
  if e.line = line ∧ e.state = .filled then s.fillSlot e.slot (overlay (s.bytesOf e.slot) bytes mask) else s

/-- The entries of a stream's read-ahead queue; none unless it is an open read stream. -/
def Stream.entries : Stream → List ReadEntry
  | .read r => r.queue
  | .write _ => []
  | .closed => []

/-- Patch-on-accept over every read stream, duplicates included (R88). -/
def State.patchFilled (s : State) (line : Nat) (mask : ByteMask) (bytes : Line) : State :=
  (s.streams.toList.flatMap Stream.entries).foldl (State.patchEntry line mask bytes) s

/-! ### Acceptance (R76) -/

/-- The WAITING entry for the line with a mask merged in; its place, slot and tag stay (R75, R81). -/
def PostQueue.merge (q : PostQueue) (line : Nat) (mask : ByteMask) : PostQueue :=
  { q with entries := q.entries.map fun e => if e.waitsFor line then { e with mask := e.mask ||| mask } else e }

/-- A new WAITING entry at the tail (R76). -/
def PostQueue.append (q : PostQueue) (line : Nat) (mask : ByteMask) (slot : SlotId) : PostQueue :=
  { q with entries := q.entries ++ [{ line := line, mask := mask, slot := slot, state := .waiting, tag := false }] }

/-- The acceptance of a post by merging into the WAITING entry e: the incoming bytes go into e's slot,
and the incoming slot is released (R76, step 1). -/
def State.mergePost (s : State) (e : PostEntry) (line : Nat) (mask : ByteMask) (slot : SlotId) : State :=
  (((s.fillSlot e.slot (overlay (s.bytesOf e.slot) (s.bytesOf slot) mask)).withPost
    (s.post.merge line mask)).release slot).patchFilled line mask (s.bytesOf slot)

/-- The acceptance of a post as a new entry: the slot is transferred (R76, step 2). -/
def State.appendPost (s : State) (line : Nat) (mask : ByteMask) (slot : SlotId) : State :=
  ((s.withPost (s.post.append line mask slot)).own slot .post).patchFilled line mask (s.bytesOf slot)

/-- The Post Queue takes a post, or does not (R76). -/
def State.acceptPost (s : State) (line : Nat) (mask : ByteMask) (slot : SlotId) : Option State :=
  match s.post.waitingFor line with
  | some e => some (s.mergePost e line mask slot)
  | none => if s.post.full then none else some (s.appendPost line mask slot)

/-! ### Merge-on-return (R90) -/

/-- The line from the memory with the WAITING entry for it laid over (R90). -/
def State.mergeOnReturn (s : State) (line : Nat) (fromMemory : Line) : Line :=
  match s.post.waitingFor line with
  | some e => overlay fromMemory (s.bytesOf e.slot) e.mask
  | none => fromMemory

/-! ### The current value (R85) -/

/-- The byte of an entry for the address's line in one state, over the byte beneath. -/
def State.overlaidBy (s : State) (st : PostState) (a : Nat) (beneath : Byte) : Byte :=
  match s.post.entries.find? fun e => e.line = lineOf a ∧ e.state = st with
  | some e => if e.mask.getLsbD (offsetOf a) then Line.at (s.bytesOf e.slot) a else beneath
  | none => beneath

/-- The current value of a byte address: memory, overlaid by the RETIRING and then by the WAITING
entry for its line (R85). -/
def State.currentValue (s : State) (a : Nat) : Byte :=
  s.overlaidBy .waiting a (s.overlaidBy .retiring a (Memory.read s.memory a))

/-! ### Retirement and SYNC (R79, R81) -/

/-- The first entry that a test holds of, changed. -/
def updateFirst {α : Type} (p : α → Bool) (f : α → α) : List α → List α
  | [] => []
  | x :: xs => if p x then f x :: xs else x :: updateFirst p f xs

/-- The oldest WAITING entry becomes RETIRING (R79). -/
def PostQueue.retireOldest (q : PostQueue) : PostQueue :=
  { q with entries := updateFirst (fun e => e.state = .waiting) (fun e => { e with state := .retiring }) q.entries }

/-- The entry whose store has a slot: RETIRING and in that slot. -/
def PostEntry.storesFrom (e : PostEntry) (slot : SlotId) : Bool := decide (e.slot = slot ∧ e.state = .retiring)

/-- The stored entry leaves the queue, the others keep their order (R75, R79). -/
def PostQueue.removeStored (q : PostQueue) (slot : SlotId) : PostQueue :=
  { q with entries := q.entries.filter fun e => !e.storesFrom slot }

/-- Some entry present is tagged. -/
def PostQueue.anyTagged (q : PostQueue) : Bool := q.entries.any fun e => e.tag

/-- The stored entry was tagged and is the last tagged one (R81). -/
def PostQueue.lastTaggedStored (q : PostQueue) (slot : SlotId) : Bool :=
  (q.entries.any fun e => e.storesFrom slot && e.tag) && !(q.removeStored slot).anyTagged

/-- SYNC tags every entry present (R81). -/
def PostQueue.tagAll (q : PostQueue) : PostQueue :=
  { q with entries := q.entries.map fun e => { e with tag := true } }

/-- Soft reset removes the WAITING entries and clears the tags (R83). -/
def PostQueue.softReset (q : PostQueue) : PostQueue :=
  { entries := (q.entries.filter fun e => e.state = .retiring).map fun e => { e with tag := false }, servePos := 8 }

end Sys2Proof.Machine
end

