-- ==== Sys2Proof/Machine/MoveEngine.lean ====
section
/-! DEFINITION. The Move Engine (08_the_move_engine.md): chunks, the source lines a job needs, building a
destination line, scanning, comparing, the end of a job, and the two queues. -/

namespace Sys2Proof.Machine

/-! ### The engine's states -/

def State.mapEngine (s : State) (f : Engine → Engine) : State := s.withEngine (f s.engine)

/-- The job in ACQUIRING or RUNNING (R143). -/
def Engine.active (e : Engine) : Option ActiveJob :=
  match e.state with
  | .idle => none
  | .acquiring j => some j
  | .running j => some j
  | .completing _ => none

/-- The active job changed, in the state it is in. -/
def Engine.mapActive (e : Engine) (f : ActiveJob → ActiveJob) : Engine :=
  match e.state with
  | .idle => e
  | .acquiring j => { e with state := .acquiring (f j) }
  | .running j => { e with state := .running (f j) }
  | .completing _ => e

/-- The engine is IDLE. -/
def Engine.isIdle (e : Engine) : Bool :=
  match e.state with
  | .idle => true
  | .acquiring _ => false
  | .running _ => false
  | .completing _ => false

/-- The job is still at work: its outcome is not decided and its cancel flag is not set (R145). -/
def ActiveJob.working (j : ActiveJob) : Bool := j.outcome.isNone && !j.cancel

/-- The running job, if it is still at work. -/
def Engine.working (e : Engine) : Option ActiveJob :=
  match e.state with
  | .running j => if j.working then some j else none
  | .idle => none
  | .acquiring _ => none
  | .completing _ => none

/-! ### Chunks -/

/-- The bytes of a chunk, from the lowest address to the highest. -/
structure Chunk where
  lo : Nat
  hi : Nat
  deriving DecidableEq, Repr

/-- The number of bytes of a chunk. -/
def Chunk.size (c : Chunk) : Nat := c.hi + 1 - c.lo

/-- The chunk that begins at lo: up to the end of its line or of the range. -/
def chunkUp (lo last : Nat) : Chunk := { lo := lo, hi := min last (lineOf lo + 15) }

/-- The chunk that ends at hi: down to the start of its line or of the range. -/
def chunkDown (first hi : Nat) : Chunk := { lo := max first (lineOf hi), hi := hi }

/-- The direction of a COPY (R148). -/
def copyDirection (a b length : Nat) : Direction :=
  if a < b ∧ b < a + length then .descending else .ascending

/-- The destination bytes of the present chunk of a COPY (R148) or FILL (R150). -/
def ActiveJob.destChunk (j : ActiveJob) : Option Chunk :=
  match j.job.work with
  | .copy _ b =>
    (match j.direction with
    | some .descending => some (chunkDown b (b + j.job.length - 1 - j.progress))
    | some .ascending => some (chunkUp (b + j.progress) (b + j.job.length - 1))
    | none => some (chunkUp (b + j.progress) (b + j.job.length - 1)))
  | .fill a _ => some (chunkUp (a + j.progress) (a + j.job.length - 1))
  | .scan _ _ _ _ => none
  | .compare _ _ => none

/-- The source lines of a COPY chunk, in the order they are fetched: the lower first when ASCENDING,
the higher first when DESCENDING (R149). -/
def copyLines (a b : Nat) (d : Option Direction) (c : Chunk) : List Nat :=
  let low := lineOf (c.lo + a - b)
  let high := lineOf (c.hi + a - b)
  if low = high then [low]
  else match d with
    | some .descending => [high, low]
    | some .ascending => [low, high]
    | none => [low, high]

/-- The source lines the present chunk of a COPY or FILL needs (R149, R150). -/
def ActiveJob.neededLines (j : ActiveJob) : List Nat :=
  match j.job.work, j.destChunk with
  | .copy a b, some c => copyLines a b j.direction c
  | .copy _ _, none => []
  | .fill _ _, _ => []
  | .scan _ _ _ _, _ => []
  | .compare _ _, _ => []

/-- The range's bytes in the line being examined (R151). -/
def scanChunk (a length progress : Nat) : Chunk := chunkUp (a + progress) (a + length - 1)

/-- The number of offsets of the present chunk of a COMPARE (R152). -/
def compareSize (a b length i : Nat) : Nat :=
  min (min (16 - offsetOf (a + i)) (16 - offsetOf (b + i))) (length - i)

/-! ### Source buffers (R145) -/

/-- The buffer holds a line FILLED. -/
def SourceBuffer.has (b : SourceBuffer) (line : Nat) : Bool :=
  decide (b.line = some line ∧ b.state = .filled)

/-- The buffer holds a line or is fetching it. -/
def SourceBuffer.holdsOrFetches (b : SourceBuffer) (line : Nat) : Bool :=
  decide (b.line = some line) && decide (b.state = .filled ∨ b.state = .inFlight ∨ b.state = .requested)

/-- The buffer can receive a new line as far as its state goes. -/
def SourceBuffer.idle (b : SourceBuffer) : Bool := decide (b.state = .empty ∨ b.state = .filled)

/-- Some buffer is REQUESTED or IN_FLIGHT or otherwise as a test says. -/
def Engine.anyBuffer (e : Engine) (p : SourceBuffer → Bool) : Bool :=
  e.buffers.toList.any fun b => match b with | some x => p x | none => false

/-- The first buffer, 0 before 1, that a test holds of. -/
def Engine.findBuffer (e : Engine) (p : SourceBuffer → Bool) : Option (Fin 2) :=
  (List.finRange 2).find? fun k => match e.buffers[k] with | some x => p x | none => false

/-- The slot of the buffer that holds a line FILLED. -/
def Engine.slotOfLine (e : Engine) (line : Nat) : Option SlotId :=
  (e.buffers.toList.filterMap id).findSome? fun b => if b.has line then some b.slot else none

/-- The line a COPY needs next and the buffer for it (R149). -/
def Engine.copyFetch (e : Engine) (j : ActiveJob) : Option (Fin 2 × Nat) :=
  match j.neededLines.find? fun l => !e.anyBuffer fun b => b.holdsOrFetches l with
  | some l =>
    (match e.findBuffer fun b => b.idle && !(j.neededLines.any fun m => b.holdsOrFetches m) with
    | some k => some (k, l)
    | none => none)
  | none => none

/-- The lowest line of the range not yet requested: the line of A at first, then the one after the
highest requested (R151). -/
def Engine.scanNext (e : Engine) (a : Nat) : Nat :=
  match (e.buffers.toList.filterMap id).filterMap fun b => b.line with
  | [] => lineOf a
  | l :: ls => ls.foldl max l + 16

/-- The line a SCAN names next and the buffer for it: one EMPTY, or FILLED with a line already
examined (R151). -/
def Engine.scanFetch (e : Engine) (a length progress : Nat) : Option (Fin 2 × Nat) :=
  if e.scanNext a ≤ lineOf (a + length - 1) then
    match e.findBuffer fun b =>
        b.idle && (match b.line with | some l => decide (l < lineOf (a + progress)) | none => true) with
    | some k => some (k, e.scanNext a)
    | none => none
  else none

/-- A COMPARE's fetch of a line into one buffer, if the buffer does not hold it and is not fetching
(R152). -/
def Engine.compareFetchInto (e : Engine) (k : Fin 2) (line : Nat) : Option (Fin 2 × Nat) :=
  match e.buffers[k] with
  | some b => if b.idle && !b.has line then some (k, line) else none
  | none => none

/-- The line a COMPARE needs next: the line of A into buffer 0, then the line of B into buffer 1
(R152). -/
def Engine.compareFetch (e : Engine) (a b i : Nat) : Option (Fin 2 × Nat) :=
  match e.compareFetchInto 0 (lineOf (a + i)) with
  | some r => some r
  | none => e.compareFetchInto 1 (lineOf (b + i))

/-- The line that the job's kind names next, with its buffer (R145, condition 4). -/
def Engine.nextFetch (e : Engine) (j : ActiveJob) : Option (Fin 2 × Nat) :=
  match j.job.work with
  | .copy _ _ => e.copyFetch j
  | .fill _ _ => none
  | .scan a _ _ _ => e.scanFetch a j.job.length j.progress
  | .compare a b => e.compareFetch a b j.progress

/-- A buffer takes a line and is REQUESTED (R145). -/
def Engine.assign (e : Engine) (k : Fin 2) (line : Nat) : Engine :=
  match e.buffers[k] with
  | some b => { e with buffers := e.buffers.set k.val (some { b with line := some line, state := .requested }) k.isLt }
  | none => e

/-- A presented request is withdrawn: the buffer becomes EMPTY with no line address (R145). -/
def SourceBuffer.withdraw (b : SourceBuffer) : SourceBuffer :=
  if b.state = .requested then { b with line := none, state := .empty } else b

def Engine.withdrawRequest (e : Engine) : Engine :=
  { e with buffers := e.buffers.map fun b => b.map SourceBuffer.withdraw }

/-- The engine presents its next request (R145), if all four conditions hold. -/
def engineRequest (s : State) : Option State :=
  match s.engine.working with
  | some j =>
    if s.engine.anyBuffer fun b => b.state = .requested then none
    else match s.engine.nextFetch j with
      | some (k, line) => some (s.mapEngine fun e => e.assign k line)
      | none => none
  | none => none

/-! ### Progress and the outcome -/

/-- The outcome is decided, and a presented request is withdrawn (R145). -/
def Engine.conclude (e : Engine) (o : JobOutcome) (value : Nat) : Engine :=
  (e.mapActive fun j => { j with outcome := some (o, value) }).withdrawRequest

/-- Progress rises by the bytes of a finished chunk (R140). -/
def ActiveJob.advance (j : ActiveJob) (n : Nat) : ActiveJob := { j with progress := j.progress + n }

/-- A chunk has ended: progress rises, and the last chunk decides the outcome, unless the cancel flag
was set before (R147, R154). -/
def Engine.finishChunk (e : Engine) (j : ActiveJob) (n : Nat) (o : JobOutcome) : Engine :=
  if j.progress + n = j.job.length ∧ !j.cancel then (e.mapActive fun x => x.advance n).conclude o 0
  else e.mapActive fun x => x.advance n

/-! ### Destination lines (R147, R149, R150) -/

/-- The source byte for the destination byte at address x; none while its line is not FILLED. -/
def State.sourceByte (s : State) (j : ActiveJob) (x : Nat) : Option Byte :=
  match j.job.work with
  | .copy a b =>
    (match s.engine.slotOfLine (lineOf (x + a - b)) with
    | some k => some (Line.at (s.bytesOf k) (x + a - b))
    | none => none)
  | .fill _ v => some v
  | .scan _ _ _ _ => none
  | .compare _ _ => none

/-- The destination slot's bytes with the chunk's bytes written at their offsets. -/
def State.builtLine (s : State) (j : ActiveJob) (slot : SlotId) (line : Nat) (mask : ByteMask) : Line :=
  overlay (s.bytesOf slot)
    (Vector.ofFn fun i => match s.sourceByte j (line + i.val) with
      | some v => v
      | none => (s.bytesOf slot)[i])
    mask

/-- The destination line once its post is accepted: the engine holds none, and its chunk has ended. -/
def State.endChunk (s : State) (n : Nat) : State :=
  match s.engine.active with
  | some j => s.withEngine ({ s.engine with dest := none }.finishChunk j n .complete)
  | none => s.withEngine { s.engine with dest := none }

/-- The line is built in its slot and posted: line address, mask, slot, origin MOVE. A post not
accepted is held (R147). -/
def State.buildAndPost (s : State) (j : ActiveJob) (c : Chunk) (slot : SlotId) : State :=
  let line := lineOf c.lo
  let mask := maskRange (offsetOf c.lo) (offsetOf c.hi)
  let built := s.fillSlot slot (s.builtLine j slot line mask)
  match built.acceptPost line mask slot with
  | some t => t.endChunk c.size
  | none => built.mapEngine fun e => { e with dest := some { slot := slot, line := line, mask := mask, held := true } }

/-- Every source line the chunk needs is FILLED. -/
def Engine.sourcesFilled (e : Engine) (j : ActiveJob) : Bool :=
  j.neededLines.all fun l => e.anyBuffer fun b => b.has l

/-- DESTINATION_LINE_BUILD: the slot is held and not posted, every source line is FILLED, and the
cancel flag is not set (R147). -/
def destinationLineBuild (s : State) : Option State :=
  match s.engine.working, s.engine.dest with
  | some j, some d =>
    (match j.destChunk with
    | some c => if !d.held && s.engine.sourcesFilled j then some (s.buildAndPost j c d.slot) else none
    | none => none)
  | some _, none => none
  | none, _ => none

/-! ### SCAN (R151) -/

/-- The byte satisfies the stop condition. -/
def scanHit (pattern mask : Byte) (c : StopCondition) (b : Byte) : Bool :=
  match c with
  | .onMatch => b &&& mask == pattern &&& mask
  | .onMismatch => b &&& mask != pattern &&& mask

/-- The lowest address of a chunk whose byte satisfies a test. -/
def findInChunk (c : Chunk) (hit : Nat → Bool) : Option Nat :=
  ((List.range c.size).find? fun k => hit (c.lo + k)).map fun k => c.lo + k

/-- The line is examined (R151). -/
def State.examine (s : State) (j : ActiveJob) (a : Nat) (pattern mask : Byte) (stop : StopCondition)
    (slot : SlotId) : State :=
  let c := scanChunk a j.job.length j.progress
  match findInChunk c fun x => scanHit pattern mask stop (Line.at (s.bytesOf slot) x) with
  | some x => s.mapEngine fun e => e.conclude .found (x - a)
  | none => s.mapEngine fun e => e.finishChunk j c.size .notFound

/-- SCAN_EXAMINATION: the lowest line not yet examined is FILLED (R151). -/
def scanExamination (s : State) : Option State :=
  match s.engine.working with
  | some j =>
    (match j.job.work with
    | .scan a pattern mask stop =>
      (match s.engine.slotOfLine (lineOf (a + j.progress)) with
      | some slot => some (s.examine j a pattern mask stop slot)
      | none => none)
    | .copy _ _ => none
    | .fill _ _ => none
    | .compare _ _ => none)
  | none => none

/-! ### COMPARE (R152) -/

/-- The lowest offset of the chunk at which the two bytes differ. -/
def State.firstDifference (s : State) (a b i n : Nat) (slotA slotB : SlotId) : Option Nat :=
  ((List.range n).find? fun k =>
    Line.at (s.bytesOf slotA) (a + i + k) != Line.at (s.bytesOf slotB) (b + i + k)).map fun k => i + k

/-- The chunk is compared (R152). -/
def State.compareLines (s : State) (j : ActiveJob) (a b : Nat) (slotA slotB : SlotId) : State :=
  let n := compareSize a b j.job.length j.progress
  match s.firstDifference a b j.progress n slotA slotB with
  | some k => s.mapEngine fun e => e.conclude .different k
  | none => s.mapEngine fun e => e.finishChunk j n .equal

/-- The slot of one buffer, if it holds the line FILLED. -/
def Engine.bufferHolding (e : Engine) (k : Fin 2) (line : Nat) : Option SlotId :=
  match e.buffers[k] with
  | some b => if b.has line then some b.slot else none
  | none => none

/-- COMPARE_CHUNK: buffer 0 holds the chunk's line of A and buffer 1 its line of B (R152). -/
def compareChunk (s : State) : Option State :=
  match s.engine.working with
  | some j =>
    (match j.job.work with
    | .compare a b =>
      (match s.engine.bufferHolding 0 (lineOf (a + j.progress)), s.engine.bufferHolding 1 (lineOf (b + j.progress)) with
      | some x, some y => some (s.compareLines j a b x y)
      | some _, none => none
      | none, _ => none)
    | .copy _ _ => none
    | .fill _ _ => none
    | .scan _ _ _ _ => none)
  | none => none

/-! ### A source line's return (R146) -/

/-- The buffer in flight with this slot becomes FILLED. -/
def SourceBuffer.fill (slot : SlotId) (b : SourceBuffer) : SourceBuffer :=
  if b.slot = slot ∧ b.state = .inFlight then { b with state := .filled } else b

/-- The merged line is written into the buffer's slot, and the buffer becomes FILLED (R146). -/
def State.bufferReturn (s : State) (slot : SlotId) (line : Line) : State :=
  (s.fillSlot slot line).mapEngine fun e =>
    { e with buffers := e.buffers.map fun b => b.map (SourceBuffer.fill slot) }

/-! ### Start and end of a job (R143, R144, R153) -/

/-- The active job at its start: progress 0, cancel flag no and no outcome (R141). -/
def Job.started (j : Job) : ActiveJob :=
  { job := j, direction := none, progress := 0, cancel := false, outcome := none }

/-- The engine with a job started: a FILL enters RUNNING at once, the others stand in ACQUIRING
(R144). -/
def Engine.start (e : Engine) (j : Job) : Engine :=
  match j.work with
  | .fill _ _ => { e with state := .running j.started }
  | .copy _ _ => { e with state := .acquiring j.started }
  | .scan _ _ _ _ => { e with state := .acquiring j.started }
  | .compare _ _ => { e with state := .acquiring j.started }

/-- JOB_START: the IDLE engine takes the job at the head of the job queue (R143). -/
def jobStart (s : State) : Option State :=
  match s.engine.state, s.engine.jobs with
  | .idle, j :: rest => some (s.withEngine ({ s.engine with jobs := rest }.start j))
  | .idle, [] => none
  | .acquiring _, _ => none
  | .running _, _ => none
  | .completing _, _ => none

/-- On entering RUNNING a COPY fixes its direction (R144, R148). -/
def ActiveJob.fixDirection (j : ActiveJob) : ActiveJob :=
  match j.job.work with
  | .copy a b => { j with direction := some (copyDirection a b j.job.length) }
  | .fill _ _ => j
  | .scan _ _ _ _ => j
  | .compare _ _ => j

/-- ACQUIRING is completed (R144). -/
def Engine.enterRunning (e : Engine) : Engine :=
  match e.state with
  | .acquiring j => { e with state := .running j.fixDirection }
  | .idle => e
  | .running _ => e
  | .completing _ => e

/-- The job's record (R154). -/
def ActiveJob.record (j : ActiveJob) : CompletionRecord :=
  match j.outcome with
  | some (o, v) => { tag := j.job.tag, kind := j.job.work.kind, outcome := o, value := v }
  | none => { tag := j.job.tag, kind := j.job.work.kind, outcome := .cancelled, value := j.progress }

/-- The slots the engine holds. -/
def Engine.slots (e : Engine) : List SlotId :=
  (e.buffers.toList.filterMap id).map SourceBuffer.slot ++
    (match e.dest with | some d => [d.slot] | none => [])

/-- The engine without its buffers and destination line. -/
def Engine.emptyHanded (e : Engine) : Engine := { e with buffers := Vector.replicate 2 none, dest := none }

/-- A record joins the completion queue, or waits in COMPLETING while the queue is full (R153, steps 4
and 5). -/
def Engine.deliver (e : Engine) (r : CompletionRecord) : Engine :=
  if e.completions.length < Config.jobPlaces then
    { e with state := .idle, completions := e.completions ++ [r] }
  else { e with state := .completing r }

/-- The engine's claim is withdrawn. -/
def State.withdrawEngineClaim (s : State) : State :=
  s.withPool { s.pool with claims := s.pool.claims.set 8 none }

/-- The end of a job (R153). -/
def State.endJob (s : State) (j : ActiveJob) : State :=
  (s.engine.slots.foldl State.release s.withdrawEngineClaim).mapEngine fun e => e.emptyHanded.deliver j.record

/-- An active job ends in this event: decided or cancelled, nothing in flight, no post held (R153). -/
def Engine.ending (e : Engine) : Option ActiveJob :=
  match e.active with
  | some j =>
    if (j.outcome.isSome || j.cancel) && !(e.anyBuffer fun b => b.state = .inFlight) &&
        !(match e.dest with | some d => d.held | none => false) then some j
    else none
  | none => none

/-- JOB_END (R153). -/
def jobEnd (s : State) : Option State :=
  match s.engine.ending with
  | some j => some (s.endJob j)
  | none => none

end Sys2Proof.Machine
end

