-- ==== Sys2Proof/Machine/Sequencer.lean ====
section
/-! DEFINITION. The Bank Sequencer (06_the_bank_sequencer.md): the requests its positions present, the
grants, the release of an owner, the burst order and the order in which steps become due. -/

namespace Sys2Proof.Machine

/-! ### Requests (R108) -/

/-- A request as it stands at a position (R108). -/
structure Request where
  op : MemOp
  line : Nat
  slot : SlotId
  mask : ByteMask
  priority : Bool
  deriving DecidableEq, Repr

/-- The request of a stream: the line of its REQUESTED entry (R41). -/
def Stream.request (c : Stream) : Option Request :=
  match c.entries.find? fun e => e.state = .requested with
  | some e => some { op := .fetch, line := e.line, slot := e.slot, mask := 0#16, priority := false }
  | none => none

/-- The retirement request: the oldest WAITING entry, with the priority indication while the queue is
full (R78). -/
def PostQueue.request (q : PostQueue) : Option Request :=
  match q.oldestWaiting with
  | some e => some { op := .store, line := e.line, slot := e.slot, mask := e.mask, priority := q.full }
  | none => none

/-- The request of a source buffer: its line while it is REQUESTED (R145). -/
def SourceBuffer.request (b : SourceBuffer) : Option Request :=
  match b.line with
  | some l =>
    if b.state = .requested then
      some { op := .fetch, line := l, slot := b.slot, mask := 0#16, priority := false }
    else none
  | none => none

/-- The request of the Move Engine at position 9 (R145). -/
def Engine.request (e : Engine) : Option Request :=
  (e.buffers.toList.filterMap id).findSome? SourceBuffer.request

/-- The request presented at a position (R108). -/
def State.requestAt (s : State) (p : Fin 10) : Option Request :=
  if h : p.val < 8 then s.streams[p.val].request
  else if p.val = 8 then s.post.request
  else s.engine.request

/-- A request is presented at some position (R137). -/
def State.anyRequest (s : State) : Bool := (List.finRange 10).any fun p => (s.requestAt p).isSome

/-! ### Memory-wide conditions -/

/-- The bank has an owner. -/
def Bank.owned (b : Bank) : Bool := b.owner.isSome

/-- Some bank has an owner. -/
def Sequencer.anyOwner (q : Sequencer) : Bool := q.banks.toList.any Bank.owned

/-- Every bank is CLOSED. -/
def Sequencer.allClosed (q : Sequencer) : Bool := q.banks.toList.all fun b => b.state = .closed

/-- The debt is urgent (R134). -/
def Renewal.urgent (r : Renewal) : Bool := decide (Config.urgentDebt ≤ r.debt)

/-- The memory-wide conditions of a grant: STARTED, no renewal urgent or in progress, no memory-wide
step (R109, conditions 2 to 4). -/
def State.grantsOpen (s : State) : Bool :=
  decide (s.seq.memory = .started) && !s.renewal.urgent && !s.renewal.active && decide (s.seq.wide = .none)

/-- A presented request is eligible (R109). -/
def State.eligible (s : State) (q : Request) : Bool :=
  !(s.seq.banks[bankOf q.line]).owned && s.grantsOpen

/-! ### The choice (R110) -/

/-- The request at a position, if it is eligible. -/
def State.eligibleAt (s : State) (p : Fin 10) : Option (Fin 10 × Request) :=
  match s.requestAt p with
  | some q => if s.eligible q then some (p, q) else none
  | none => none

/-- The Post Queue's request, if it carries the priority indication and is eligible (R110, step 1). -/
def State.priorityGrant (s : State) : Option (Fin 10 × Request) :=
  match s.eligibleAt 8 with
  | some (p, q) => if q.priority then some (p, q) else none
  | none => none

/-- The request to grant (R110). -/
def State.nextRequestGrant (s : State) : Option (Fin 10 × Request) :=
  match s.priorityGrant with
  | some g => some g
  | none => (cyclicAfter s.seq.grantPos).findSome? s.eligibleAt

/-! ### The burst order (R112) -/

/-- A bank joins the burst order at its tail, unless it is in it. -/
def Sequencer.joinBurst (q : Sequencer) (b : BankId) : Sequencer :=
  if q.burstOrder.contains b then q else { q with burstOrder := q.burstOrder ++ [b] }

/-! ### The grant (R111) -/

/-- The owner record of a granted request (R101). -/
def Request.owner (q : Request) (p : Fin 10) : OwnerRecord :=
  { position := p, op := q.op, line := q.line, slot := q.slot, mask := q.mask, discard := false }

/-- The requester is told of its grant (R111): the entry becomes IN_FLIGHT (R41), the oldest WAITING
entry RETIRING (R79), or the buffer IN_FLIGHT (R145). -/
def State.tellRequester (s : State) (p : Fin 10) (q : Request) : State :=
  if h : p.val < 8 then s.entryInFlight ⟨p.val, h⟩ q.slot
  else if p.val = 8 then s.withPost s.post.retireOldest
  else s.withEngine
    { s.engine with
      buffers := s.engine.buffers.map fun b =>
        match b with
        | some x => if x.slot = q.slot ∧ x.state = .requested then some { x with state := .inFlight } else some x
        | none => none }

/-- The steps that the new owner's bank sets out on (R111). A bank with CLOSE ROW due is treated as
CLOSING (R115, step 3). -/
def State.setOut (s : State) (b : BankId) (row : Nat) : State :=
  match s.seq.banks[b].state with
  | .opened =>
    if s.seq.hasDue b then s
    else if s.seq.banks[b].openRow = some row then s.withSeq (s.seq.joinBurst b)
    else s.addDue b .closeRow
  | .closed => s.addDue b .openRow
  | .opening | .reading | .writing | .recovering | .closing => s

/-- The bank records its owner, the grant position becomes the position granted (R110, R111), and a
CLOSE ALL called for by soft reset and not yet issued lapses (R122). -/
def State.recordOwner (s : State) (p : Fin 10) (q : Request) : State :=
  (s.setBank (bankOf q.line) { s.seq.banks[bankOf q.line] with owner := some (q.owner p) }).mapSeq fun x =>
    { x with grantPos := p, resetCloseAll := none }

/-- One grant, taken by the bank and by the requester in the same event (R110, R111). -/
def State.grantRequest (s : State) (p : Fin 10) (q : Request) : State :=
  ((s.recordOwner p q).setOut (bankOf q.line) (rowOf q.line)).tellRequester p q

/-- REQUEST_GRANT: the next grant, if a request is eligible. -/
def requestGrant (s : State) : Option State :=
  match s.nextRequestGrant with
  | some (p, q) => some (s.grantRequest p q)
  | none => none

/-! ### The release of an owner (R115) -/

/-- CLOSE ROW is due at the release: close due, or the policy CLOSE_AFTER. -/
def State.closesAtRelease (s : State) (b : BankId) : Bool :=
  s.seq.banks[b].closeDue || decide (s.timing.rowPolicy = .closeAfter)

/-- The owner is released and the row dealt with (R115, steps 1 and 2). The grants of step 3 are made
when the event's consequences run. -/
def State.releaseBank (s : State) (b : BankId) : State :=
  let t := s.setBank b { s.seq.banks[b] with state := .opened, owner := none, left := 0, closeDue := false }
  if s.closesAtRelease b then t.addDue b .closeRow else t

/-- The data bus is freed (R112). -/
def State.freeBus (s : State) : State := s.withSeq { s.seq with dataBus := none }

/-! ### The order of what falls in one event (R106, R112) -/

/-- Insertion into a list kept in order of a key, before the members of an equal key. -/
def insertByKey {α : Type} (key : α → Nat) (x : α) : List α → List α
  | [] => [x]
  | y :: ys => if key x ≤ key y then x :: y :: ys else y :: insertByKey key x ys

/-- A list put in order of a key; members of equal key keep their order. -/
def sortByKey {α : Type} (key : α → Nat) : List α → List α
  | [] => []
  | x :: xs => insertByKey key x (sortByKey key xs)

/-- The members after the first n put in order of a key. -/
def sortAfter {α : Type} (n : Nat) (key : α → Nat) (l : List α) : List α :=
  l.take n ++ sortByKey key (l.drop n)

/-- While the data bus is free and the burst order is not empty, the burst of the bank at its head is
due and the bus is held for it (R112, R106). -/
def State.scheduleBurst (s : State) : State :=
  match s.seq.dataBus, s.seq.burstOrder with
  | none, b :: _ => (s.addDue b .burst).mapSeq fun q => { q with dataBus := some b }
  | none, [] => s
  | some _, _ => s

/-- Banks that became ready in this event stand in the burst order in ascending bank number (R112). -/
def State.orderReady (before s : State) : State :=
  s.mapSeq fun q => { q with burstOrder := sortAfter before.seq.burstOrder.length Fin.val q.burstOrder }

/-- Steps that became due in this event stand in ascending bank number (R106). -/
def State.orderDue (before s : State) : State :=
  s.mapSeq fun q => { q with due := sortAfter before.seq.due.length (fun d => d.1.val) q.due }

/-- A CLOSE ALL that soft reset has called for since the state `before` goes out after every bank step that is
due by now: after those that became due before it or with it (R106). -/
def State.placeCloseAll (before s : State) : State :=
  match before.seq.resetCloseAll, s.seq.resetCloseAll with
  | none, some _ => s.mapSeq fun q => { q with resetCloseAll := some q.due.length }
  | none, none => s
  | some _, _ => s

end Sys2Proof.Machine
end

