-- ==== Sys2Proof/Machine/CommandPort.lean ====
section
/-! DEFINITION. The Command Port's own part of a command (09_commands_and_control.md): completing, staying
EXECUTING, and the RESULT bytes. -/

namespace Sys2Proof.Machine

/-- A command completes with a result code: the code is recorded, CMD_DONE is set, and the port
becomes IDLE (R164). -/
def State.complete (s : State) (r : ResultCode) : State :=
  (s.withPort { s.port with lastResult := r, state := .idle }).mapEvents Events.setCmdDone

/-- A command stays in progress with its copy of the parameter block (R162, R164). -/
def State.stayExecuting (s : State) (c : LongCommand) (p : Vector Byte 16) : State :=
  s.withPort { s.port with state := .executing { command := c, params := p } }

/-- The RESULT bytes are written (R164). -/
def State.writeResults (s : State) (r : Vector Byte 8) : State := s.withPort { s.port with result := r }

/-- The command state is RESETTING. -/
def State.isResetting (s : State) : Bool :=
  match s.port.state with
  | .resetting => true
  | .idle => false
  | .executing _ => false

end Sys2Proof.Machine
end

