-- ==== Sys2Proof/Machine/WriteStreams.lean ====
section
/-! DEFINITION. Write streams (04, sections 4.1 to 4.5): placing bytes, posting the assembly, linger,
blocked writers, and the draining commands. -/

namespace Sys2Proof.Machine

/-- The assembly made at a grant, for the line of the cursor, with no byte set (R27, R59). -/
def WriteStream.withAssembly (w : WriteStream) (slot : SlotId) : WriteStream :=
  { w with
    assembly := some { slot := slot, line := lineOf w.cursor, mask := 0#16, frozen := false }
    state := .opened }

/-- The assembly is frozen and posted (R62). The linger timer stops (R63). An accepted post leaves the
stream without assembly in the state `accepted`; a held one stays frozen, in the state `held`. -/
def State.postAssembly (s : State) (n : StreamId) (w : WriteStream) (a : Assembly)
    (accepted held : WriteState) : State :=
  match s.acceptPost a.line a.mask a.slot with
  | some t => t.setStream n (.write { w with lingerTimer := none, assembly := none, state := accepted })
  | none =>
    s.setStream n (.write { w with lingerTimer := none, assembly := some { a with frozen := true }, state := held })

/-- The assembly with the cursor's byte marked (R61). -/
def Assembly.mark (a : Assembly) (cursor : Nat) : Assembly :=
  { a with mask := a.mask ||| BitVec.twoPow 16 (offsetOf cursor) }

/-- The line with a byte placed at the cursor's offset (R61). -/
def Line.place (l : Line) (cursor : Nat) (v : Byte) : Line :=
  l.set (offsetOf cursor) v (Nat.mod_lt _ (by decide))

/-- The linger timer after a placement: started afresh, or not running when linger is 0 (R63). -/
def WriteStream.lingerStart (w : WriteStream) : Option Nat :=
  if w.linger = 0 then none else some (w.linger * Config.lingerUnit)

/-- A byte is placed: it is stored and marked, the cursor advances, and the assembly is posted when the
cursor leaves the line or reaches the end (R61, R13, R14). -/
def State.placeByte (s : State) (n : StreamId) (w : WriteStream) (a : Assembly) (v : Byte) : State :=
  let stored := s.fillSlot a.slot (Line.place (s.bytesOf a.slot) w.cursor v)
  let marked := a.mark w.cursor
  let next := { w with cursor := w.cursor + 1, lingerTimer := w.lingerStart }
  if w.cursor + 1 = w.window.fin then
    match w.window.endPolicy with
    | .stop => (stored.postAssembly n next marked .ended .ended).mapFlags n StreamFlags.setEnd
    | .wrap =>
      (stored.postAssembly n { next with cursor := w.window.first } marked .opened
        (.blocked .postFull)).mapFlags n StreamFlags.setWrapped
  else if lineOf (w.cursor + 1) = a.line then
    stored.setStream n (.write { next with assembly := some marked, state := .opened })
  else stored.postAssembly n next marked .opened (.blocked .postFull)

/-- The byte is dropped with OVERRUN (R67). -/
def State.overrun (s : State) (n : StreamId) : State := s.mapFlags n StreamFlags.setOverrun

/-- A slot is granted to a write stream: its assembly is made, and a byte waiting in a stretched cycle
is placed in the same event, which ends the cycle (R27, R60, R66). -/
def State.grantAssembly (s : State) (n : StreamId) (w : WriteStream) (slot : SlotId) : State :=
  let made := w.withAssembly slot
  let t := (s.own slot (.assembly n)).setStream n (.write made)
  match s.bus.waitingWrite n, made.assembly with
  | some v, some a => (t.placeByte n made a v).withBus (.answered none)
  | some _, none => t
  | none, _ => t

/-- The claim of a byte that cannot be granted at once: BLOCKED with reason NO_SLOT; the cycle is
stretched under WAIT, and the byte is dropped under NOWAIT (R60). -/
def State.blockNoSlot (s : State) (n : StreamId) (w : WriteStream) (v : Byte) : State :=
  let blocked := s.setStream n (.write { w with state := .blocked .noSlot })
  match w.window.waitPolicy with
  | .wait limit => blocked.withBus (.stretched n (.write v) limit)
  | .nowait => blocked.overrun n

/-- A write of DATAn while the stream is OPEN (R60): the byte is placed in the assembly, or claims one. A
claim that finds a free slot is granted at once (R25). -/
def State.writeInOpen (s : State) (n : StreamId) (w : WriteStream) (v : Byte) : State :=
  match w.assembly with
  | some a => s.placeByte n w a v
  | none =>
    match s.pool.firstFree with
    | some slot =>
      ((s.withPool { s.pool with grantPos := n.castLE (by decide) }).own slot (.assembly n)).placeByte n
        (w.withAssembly slot) { slot := slot, line := lineOf w.cursor, mask := 0#16, frozen := false } v
    | none => s.blockNoSlot n w v

/-- A write of DATAn while the stream is BLOCKED, DRAINING or ENDED: stretched when BLOCKED under WAIT,
else dropped with OVERRUN (R66, R67). -/
def State.writeTurnedAway (s : State) (n : StreamId) (w : WriteStream) (v : Byte) : State :=
  match w.state, w.window.waitPolicy with
  | .blocked _, .wait limit => s.withBus (.stretched n (.write v) limit)
  | .blocked _, .nowait => s.overrun n
  | .draining, _ => s.overrun n
  | .ended, _ => s.overrun n
  | .opened, _ => s

/-- The linger timer expires: the partly filled assembly is posted (R63). -/
def State.lingerPost (s : State) (n : StreamId) (w : WriteStream) : State :=
  match w.assembly with
  | some a => s.postAssembly n w a .opened (.blocked .postFull)
  | none => s.setStream n (.write { w with lingerTimer := none })

/-! ### A held post's acceptance (R65, R66, R77) -/

/-- The stream after the acceptance of its held post: a stream BLOCKED with reason POST_FULL is OPEN,
or claims for the byte that waits in a stretched cycle; a DRAINING or ENDED stream keeps its state. -/
def WriteStream.accepted (w : WriteStream) (byteWaits : Bool) : WriteStream :=
  { w with
    lingerTimer := none
    assembly := none
    state := match w.state with
      | .blocked _ => if byteWaits then .blocked .noSlot else .opened
      | .opened => .opened
      | .draining => .draining
      | .ended => .ended }

/-! ### FLUSH, SEEK and CLOSE of a write stream (R70 to R74) -/

/-- The effect of the command once the stream holds no assembly (R71 to R73). -/
def drainEffect (c : LongCommand) (t : Nat) (w : WriteStream) : Stream :=
  match c with
  | .flush => .write { w with lingerTimer := none, assembly := none, state := .opened }
  | .seek => .write { w with cursor := t, lingerTimer := none, assembly := none, state := .opened }
  | .close => .closed
  | .memStart => .write w

/-- The stream becomes DRAINING with its post held, and the command stays EXECUTING (R70, R74). -/
def State.drain (s : State) (n : StreamId) (w : WriteStream) (c : LongCommand) (p : Params) : State :=
  (s.setStream n (.write { w with lingerTimer := none, state := .draining })).stayExecuting c p

/-- The command makes its effect and completes with OK (R70, R74). -/
def State.finishDrain (s : State) (n : StreamId) (w : WriteStream) (c : LongCommand) (p : Params) : State :=
  (s.setStream n (drainEffect c p.target w)).complete .ok

/-- The effect on a stream BLOCKED with reason NO_SLOT, which holds no assembly: FLUSH changes nothing,
SEEK moves the cursor and leaves the claim waiting, CLOSE closes it (R71 to R73). -/
def noSlotEffect (c : LongCommand) (t : Nat) (w : WriteStream) : Stream :=
  match c with
  | .flush => .write w
  | .seek => .write { w with cursor := t }
  | .close => .closed
  | .memStart => .write w

/-- FLUSH, SEEK and CLOSE deal with the assembly as it stands (R70) and then with the stream by its
state (R71 to R73). -/
def State.writeStreamCommand (s : State) (n : StreamId) (w : WriteStream) (c : LongCommand) (p : Params) : State :=
  match w.state with
  | .opened =>
    (match w.assembly with
    | none => s.finishDrain n w c p
    | some a =>
      if a.mask = 0#16 then (s.release a.slot).finishDrain n w c p
      else match s.acceptPost a.line a.mask a.slot with
        | some t => t.finishDrain n w c p
        | none => s.drain n { w with assembly := some { a with frozen := true } } c p)
  | .blocked .noSlot => (s.setStream n (noSlotEffect c p.target w)).complete .ok
  | .blocked .postFull => s.drain n w c p
  | .draining => s.drain n w c p
  | .ended =>
    (match c with
    | .flush => s.complete .ok
    | .seek | .close | .memStart =>
      (match w.assembly with
      | none => s.finishDrain n w c p
      | some _ => s.drain n w c p))

end Sys2Proof.Machine
end

