-- ==== Sys2Proof/Machine/Grants.lean ====
section
/-! DEFINITION. The claims and grants of the Line Pool (02_the_line_pool.md), the Post Queue's taking of
held posts (R77), and the completion of a drain (R74). -/

namespace Sys2Proof.Machine

/-! ### Claims (R23, R24) -/

/-- The claim of a stream: a read stream's while it has a fetch need (R39), a write stream's while it
is BLOCKED with reason NO_SLOT (R60). -/
def Stream.claim : Stream → Option Claim
  | .closed => none
  | .read r => if r.fetchNeed then some { cls := r.claimClass, purpose := .read } else none
  | .write w => match w.state with
    | .blocked .noSlot => some { cls := .essential, purpose := .assembly }
    | .blocked .postFull => none
    | .opened => none
    | .draining => none
    | .ended => none

/-- The source claim of ACQUIRING: JOB_SOURCE 0, and then JOB_SOURCE 1 (R144). -/
def Engine.sourceClaim (e : Engine) : Option Claim :=
  match e.buffers[0], e.buffers[1] with
  | none, _ => some { cls := .essential, purpose := .jobSource 0 }
  | some _, none => some { cls := .essential, purpose := .jobSource 1 }
  | some _, some _ => none

/-- The claim of a chunk for its destination line (R147). -/
def Engine.destClaim (e : Engine) (j : ActiveJob) : Option Claim :=
  match e.dest, j.destChunk with
  | none, some _ => some { cls := .essential, purpose := .jobDest }
  | none, none => none
  | some _, _ => none

/-- The engine's claim. A cancelled job makes no new one (R147), and in RUNNING its waiting claim stays until
the job ends, as R157 and R24 say; R158's table withdraws it at the cancel. Which of the two holds while a
fetch of the job is still in flight is a DESIGN CHOICE (log entry 27). -/
def Engine.claim (e : Engine) (waiting : Option Claim) : Option Claim :=
  match e.state with
  | .idle => none
  | .acquiring j => if j.working then e.sourceClaim else none
  | .running j => if j.working then e.destClaim j else if j.outcome.isSome then none else waiting
  | .completing _ => none

/-- The claim that a claimant has now: made, kept, changed of class or withdrawn (R23, R24). -/
def State.claimOf (s : State) (c : Fin 9) : Option Claim :=
  if h : c.val < 8 then s.streams[c.val].claim else s.engine.claim s.pool.claims[c]

/-- Every claimant's claim. -/
def State.claimList (s : State) : Vector (Option Claim) 9 := Vector.ofFn s.claimOf

/-- The claim list follows its claimants (R24, R39, log entry 11). -/
def syncClaims (s : State) : Option State :=
  if s.claimList.toList = s.pool.claims.toList then none
  else some (s.withPool { s.pool with claims := s.claimList })

/-! ### Grants (R25, R27) -/

/-- A claimant's waiting claim, if it is of a class. -/
def Pool.claimAt (p : Pool) (cls : ClaimClass) (c : Fin 9) : Option (Fin 9 × Claim) :=
  match p.claims[c] with
  | some x => if x.cls = cls then some (c, x) else none
  | none => none

/-- The first waiting claim of a class in the round-robin order (R25). -/
def Pool.firstClaim (p : Pool) (cls : ClaimClass) : Option (Fin 9 × Claim) :=
  (cyclicAfter p.grantPos).findSome? (p.claimAt cls)

/-- The claim to grant (R25). -/
def Pool.nextGrant (p : Pool) : Option (Fin 9 × Claim) :=
  match p.firstClaim .essential with
  | some g => if 1 ≤ p.freeCount then some g else none
  | none => if Config.reserve < p.freeCount then p.firstClaim .readAhead else none

/-- A read stream with a fetch need takes its slot (R40). -/
def State.grantRead (s : State) (n : StreamId) (k : SlotId) : State :=
  match s.streams[n] with
  | .read r => if r.fetchNeed then (s.own k (.read n)).setStream n (.read (r.append k)) else s
  | .write _ => s
  | .closed => s

/-- A write stream BLOCKED with reason NO_SLOT takes its slot (R27, R65). -/
def State.grantWrite (s : State) (n : StreamId) (k : SlotId) : State :=
  match s.streams[n] with
  | .write w => if w.state = .blocked .noSlot then s.grantAssembly n w k else s
  | .read _ => s
  | .closed => s

/-- The engine takes a slot as a source buffer, EMPTY when granted; the second completes ACQUIRING
(R144). -/
def State.grantSource (s : State) (i : Fin 2) (k : SlotId) : State :=
  (s.own k (.jobSource i)).mapEngine fun e =>
    let held := { e with buffers := e.buffers.set i.val (some { slot := k, line := none, state := .empty }) i.isLt }
    if i = 1 then held.enterRunning else held

/-- The engine takes a slot for the present chunk's destination line, with no byte set (R147). -/
def State.grantDest (s : State) (k : SlotId) : State :=
  match s.engine.active with
  | some j =>
    (match j.destChunk with
    | some c => (s.own k .jobDest).mapEngine fun e =>
        { e with dest := some { slot := k, line := lineOf c.lo, mask := 0#16, held := false } }
    | none => s)
  | none => s

/-- The claimant takes the slot under the claim's purpose (R27). -/
def State.takeSlot (s : State) (c : Fin 9) (x : Claim) (k : SlotId) : State :=
  match x.purpose with
  | .read => if h : c.val < 8 then s.grantRead ⟨c.val, h⟩ k else s
  | .assembly => if h : c.val < 8 then s.grantWrite ⟨c.val, h⟩ k else s
  | .jobSource i => s.grantSource i k
  | .jobDest => s.grantDest k

/-- The claim leaves the list and the grant position becomes its claimant (R25, R27). -/
def Pool.granted (p : Pool) (c : Fin 9) : Pool := { p with claims := p.claims.set c.val none c.isLt, grantPos := c }

/-- SLOT_GRANT: the next grant, if a waiting claim is eligible and a slot is FREE (R25). -/
def slotGrant (s : State) : Option State :=
  match s.pool.nextGrant, s.pool.firstFree with
  | some (c, x), some k => some ((s.withPool (s.pool.granted c)).takeSlot c x k)
  | some _, none => none
  | none, _ => none

/-! ### Held posts (R77) -/

/-- A held post: line, mask and slot. -/
structure HeldPost where
  line : Nat
  mask : ByteMask
  slot : SlotId
  deriving DecidableEq, Repr

/-- The held post of a stream: its frozen assembly (R59). -/
def Stream.heldPost : Stream → Option HeldPost
  | .closed => none
  | .read _ => none
  | .write w => match w.assembly with
    | some a => if a.frozen then some { line := a.line, mask := a.mask, slot := a.slot } else none
    | none => none

/-- The held post of the Move Engine (R147). -/
def Engine.heldPost (e : Engine) : Option HeldPost :=
  match e.dest with
  | some d => if d.held then some { line := d.line, mask := d.mask, slot := d.slot } else none
  | none => none

/-- The held post of an origin; origin 8 is MOVE (R77). -/
def State.heldAt (s : State) (o : Fin 9) : Option HeldPost :=
  if h : o.val < 8 then s.streams[o.val].heldPost else s.engine.heldPost

/-- The poster after the acceptance of its held post (R65, R66, R74, R147). -/
def State.posterAccepted (s : State) (o : Fin 9) : State :=
  if h : o.val < 8 then
    match s.streams[o.val] with
    | .write w => s.setStream ⟨o.val, h⟩ (.write (w.accepted (s.bus.waitingWrite ⟨o.val, h⟩).isSome))
    | .read _ => s
    | .closed => s
  else
    match s.engine.dest with
    | some d => s.endChunk (maskCount d.mask)
    | none => s

/-- The state after the held post of an origin is taken, if R76 can take it. -/
def State.takeHeld (s : State) (o : Fin 9) : Option State :=
  match s.heldAt o with
  | some p =>
    (match s.acceptPost p.line p.mask p.slot with
    | some t => some ((t.withPost { t.post with servePos := o }).posterAccepted o)
    | none => none)
  | none => none

/-- HELD_POST_ACCEPTANCE: the first held post after the serve position that R76 can take (R77). -/
def heldPostAcceptance (s : State) : Option State :=
  (cyclicAfter s.post.servePos).findSome? s.takeHeld

/-! ### The end of a drain (R74) -/

/-- DRAIN_COMPLETE: the waiting command's stream is DRAINING and its post has been accepted; the
command makes its effect and completes (R74). -/
def drainComplete (s : State) : Option State :=
  match s.port.state with
  | .executing c =>
    (match Params.stream c.params with
    | some n =>
      (match s.streams[n] with
      | .write w =>
        if w.state = .draining ∧ w.assembly = none then some (s.finishDrain n w c.command c.params) else none
      | .read _ => none
      | .closed => none)
    | none => none)
  | .idle => none
  | .resetting => none

end Sys2Proof.Machine
end

