-- ==== Sys2Proof/Machine/Renewal.lean ====
section
/-! DEFINITION. Renewal and memory start-up (07_renewal_and_memory_start_up.md): the debt, the start of a
renewal, the start-up sequence, and the conditions of the memory-wide steps. -/

namespace Sys2Proof.Machine

/-! ### The timer and the debt (R133) -/

/-- The interval timer starts from zero. -/
def State.restartInterval (s : State) : State :=
  s.withRenewal { s.renewal with interval := some s.timing.renewalInterval }

/-- At an expiry the debt rises by 1, or RENEWAL_LATE is set at the cap (R133). -/
def State.oweRenewal (s : State) : State :=
  if s.renewal.debt < Config.debtCap then s.withRenewal { s.renewal with debt := s.renewal.debt + 1 }
  else s.mapEvents Events.setRenewalLate

/-! ### The start of a renewal (R134, R136, R137) -/

/-- An urgent renewal starts (R136). -/
def State.urgentStart (s : State) : Bool :=
  decide (s.seq.memory = .started) && s.renewal.urgent && !s.renewal.active

/-- An opportunistic renewal starts (R137). -/
def State.opportunisticStart (s : State) : Bool :=
  decide (s.seq.memory = .started) && decide (1 ≤ s.renewal.debt) && !s.renewal.active &&
    decide (s.seq.wide = .none) && !s.seq.anyOwner && !s.anyRequest

/-- The renewal indicator becomes yes, which calls for CLOSE ALL (R134). -/
def State.startRenewal (s : State) : State := s.withRenewal { s.renewal with active := true }

/-- A renewal starts in the event, if it is urgent or opportunistic. -/
def renewalStart (s : State) : Option State :=
  if s.urgentStart || s.opportunisticStart then some s.startRenewal else none

/-- OPPORTUNISTIC_RENEWAL (R137). -/
def opportunisticRenewal (s : State) : Option State :=
  if s.opportunisticStart then some s.startRenewal else none

/-! ### The memory-wide steps (R105, R119, R120) -/

/-- No bank step waits for the command pins. -/
def Sequencer.noneDue (q : Sequencer) : Bool := q.due.isEmpty

/-- Every bank is CLOSED, or OPEN with no owner, and at least one is OPEN (R105). -/
def Sequencer.closable (q : Sequencer) : Bool :=
  (q.banks.toList.all fun b => b.state = .closed || (b.state = .opened && !b.owned)) &&
    q.banks.toList.any fun b => b.state = .opened

/-- A CLOSE ALL is called for by a renewal that has not issued its RENEW ALL (R119). -/
def State.renewalCallsCloseAll (s : State) : Bool :=
  s.renewal.active && decide (s.seq.memory = .started) && decide (s.seq.wide = .none)

/-- Every bank step that goes out before the CLOSE ALL that soft reset called for has gone out: those that became
due before it or with it (R106). -/
def Sequencer.resetCloseAllTurn (q : Sequencer) : Bool :=
  match q.resetCloseAll with
  | some ahead => decide (ahead = 0) || q.noneDue
  | none => false

/-- A CLOSE ALL is called for and its turn among the steps that wait has come. A renewal's waits for every bank
step that is due, the later ones too (R138), and so does one step that serves a renewal and soft reset (log
entry 17); soft reset's alone stands in the order of R106. -/
def State.closeAllTurn (s : State) : Bool :=
  if s.renewalCallsCloseAll then s.seq.noneDue else s.seq.resetCloseAllTurn

/-- The CLOSE ALL of start-up phase 2 is due (R129). -/
def State.startCloseReady (s : State) : Bool :=
  decide (s.seq.memory = .starting) && decide (s.startUp = .closeCalled)

/-- A CLOSE ALL of a renewal or of soft reset can be issued (R105, R106, R119). -/
def State.closeAllReady (s : State) : Bool := s.closeAllTurn && s.seq.closable

/-- RENEW ALL is called for: by start-up phase 3, or by a renewal in progress (R128, R134). -/
def State.renewAllCalled (s : State) : Bool :=
  match s.startUp with
  | .renewCalled _ => decide (s.seq.memory = .starting)
  | .none => s.renewal.active && decide (s.seq.memory = .started)
  | .settle _ | .closeCalled | .closeSettling | .renewRunning _ | .loadCalled | .loadRunning => false

/-- The condition of RENEW ALL (R105). No bank step can be due with every bank CLOSED and unowned; should one be,
it goes out first (log entry 17). -/
def State.renewAllReady (s : State) : Bool :=
  s.renewAllCalled && s.seq.allClosed && !s.seq.anyOwner && decide (s.seq.wide = .none) && s.seq.noneDue

/-- The condition of LOAD OPTIONS (R105), likewise. -/
def State.loadOptionsReady (s : State) : Bool :=
  decide (s.startUp = .loadCalled) && decide (s.seq.memory = .starting) && s.seq.allClosed &&
    decide (s.seq.wide = .none) && s.seq.noneDue

/-! ### The start-up sequence (R128) -/

/-- MEM_START in an UNSTARTED memory: the memory becomes STARTING and SETTLE begins (R127). -/
def State.beginStartUp (s : State) : State :=
  (s.mapSeq fun q => { q with memory := .starting }).withStartUp (.settle Config.settleMicroseconds)

/-- The close settle of the start-up CLOSE ALL ends: phase 3 begins (R128). -/
def StartUp.afterClose : StartUp → StartUp
  | .closeSettling => .renewCalled false
  | p => p

/-- RENEW ALL is issued in phase 3 (R128). -/
def StartUp.renewIssued : StartUp → StartUp
  | .renewCalled b => .renewRunning b
  | p => p

/-- A start-up renewal ends: the second RENEW ALL, and then phase 4 (R128). -/
def StartUp.afterRenew : StartUp → StartUp
  | .renewRunning false => .renewCalled true
  | .renewRunning true => .loadCalled
  | p => p

/-- Phase 5: STARTED, the debt 0, the interval timer from zero, and MEM_START completes (R127, R128,
R133). -/
def State.memoryStarted (s : State) : State :=
  (((s.mapSeq fun q => { q with memory := .started }).withStartUp .none).withRenewal
    { debt := 0, interval := some s.timing.renewalInterval, active := false }).complete .ok

/-- A renewal is complete: the debt falls by 1 and the indicator becomes no (R135). -/
def State.completeRenewal (s : State) : State :=
  if s.renewal.active then s.withRenewal { s.renewal with debt := s.renewal.debt - 1, active := false } else s

/-- A soft reset while STARTING abandons the sequence; a step already issued runs out (R132). -/
def State.abandonStartUp (s : State) : State :=
  if s.seq.memory = .starting then (s.mapSeq fun q => { q with memory := .unstarted }).withStartUp .none else s

/-- MCKE: high from MEM_START on, and while an abandoned start-up step runs out; low while /RESET is
low (R126, R132, R187). -/
def State.mcke (s : State) : Bool :=
  !s.resetLow && (decide (s.seq.memory ≠ .unstarted) || s.startClose.isSome || decide (s.seq.wide ≠ .none))

/-- MCLK runs at the frequency of CLK, and is held low while /RESET is low (R126, R187). -/
def State.mclkRuns (s : State) : Bool := !s.resetLow

/-! ### The option word (R130) -/

/-- MA1 to MA0 the read latency, MA2 low, MA5 to MA3 the value 3 (R130). -/
def TimingSet.optionWord (t : TimingSet) : BitVec 12 := BitVec.ofNat 12 (t.readLatency % 4 + 3 * 8)

end Sys2Proof.Machine
end

