-- ==== Sys2Proof/Machine/Settle.lean ====
section
/-! DEFINITION. What one event brings about in the other blocks belongs to that event (R26, R77, R110,
R147, R171). Each such consequence is an action that answers the state after it, or none where the
state has nothing of the kind to do. An event runs them until none is left, the first in the list
that has something to do first (log entry 8). -/

namespace Sys2Proof.Machine

/-! ### Soft reset's end (R171, R122) -/

/-- The end of RESETTING: the flags are cleared, the enables kept, the Command Port is IDLE, and CLOSE
ALL is called for, behind the bank steps that wait; one still called for keeps its turn (R171, R122, R106,
R119). -/
def State.endResetting (s : State) : State :=
  ((((s.mapEvents Events.clearFlags).withStreamFlags (Vector.replicate 8 StreamFlags.none)).withPort
    { s.port with state := .idle })).mapSeq fun q => { q with resetCloseAll := some (q.resetCloseAll.getD q.due.length) }

/-- RESETTING_END: no bank has an owner (R171). -/
def resettingEnd (s : State) : Option State :=
  if s.isResetting && !s.seq.anyOwner then some s.endResetting else none

/-- The CLOSE ALL of soft reset is satisfied at once when every bank is CLOSED (R119). -/
def resetCallSatisfied (s : State) : Option State :=
  if s.seq.resetCloseAll.isSome && s.seq.allClosed then some (s.mapSeq fun q => { q with resetCloseAll := none })
  else none

/-! ### SCAN's turn (R145, R151) -/

/-- The lowest line not yet examined is examined once the engine has no request that can be granted: the line
named after one examination is requested and granted before the next line is examined (R151; the return
of line 000 in the second worked example of 08). -/
def examineInTurn (s : State) : Option State := if (s.eligibleAt 9).isSome then none else scanExamination s

/-! ### All consequences -/

/-- The consequences in the order in which they are tried. DESIGN CHOICE (log entry 8) where no rule
orders two of them; a renewal is decided before the grants of its event (R115), and a line is examined
after the grant of the line named before it (R151). -/
def settleActions : List (State → Option State) :=
  [syncClaims, slotGrant, heldPostAcceptance, drainComplete, jobEnd, jobStart, destinationLineBuild,
   engineRequest, examineInTurn, compareChunk, renewalStart, requestGrant, resettingEnd,
   resetCallSatisfied]

/-- The next consequence, if there is one. -/
def settleStep (s : State) : Option State := settleActions.findSome? fun a => a s

/-- At most a number of consequences, one after the other. -/
def settleLoop : Nat → State → State
  | 0, s => s
  | k + 1, s =>
    match settleStep s with
    | some t => settleLoop k t
    | none => s

/-- Every consequence of an event. -/
def State.settle (s : State) : State := settleLoop Config.settleFuel s

/-- The end of an event that began in the state `before`: its consequences, the banks that became ready
in ascending order, the burst that is due, the steps that became due in ascending order, and a CLOSE ALL called
for behind them (R112, R106). -/
def State.finish (before s : State) : State :=
  State.placeCloseAll before (State.orderDue before (State.scheduleBurst (State.orderReady before s.settle)))

/-- A consequence as an event of its own: it acts where the state has it to do. -/
def consequence (a : State → Option State) (s : State) : State :=
  match a s with
  | some t => State.finish s t
  | none => s

end Sys2Proof.Machine
end

