-- ==== Sys2Proof/Machine/Commands.lean ====
section
/-! DEFINITION. The effect of each command of the command code table (R163), taken in IDLE with its copy
of the parameter block: the checks in their order (section 9.4) and the effect. A refused command
completes with its result code and changes nothing else (R164). -/

namespace Sys2Proof.Machine

/-! ### OPEN_READ and OPEN_WRITE (R9 to R11) -/

/-- A window is valid: first is not above last, and last is below the fitted size (R3). -/
def Window.valid (w : Window) (fitted : Nat) : Bool := decide (w.first ≤ w.last ∧ w.last < fitted)

/-- The context OPEN_READ makes (R9), if its parameters pass check 3 of R11. -/
def Params.readContext (p : Params) : Option (Window × Stream) :=
  match p.window, p.depth with
  | some w, some d =>
    some (w, .read { window := w, cursor := w.first, fetchCursor := lineOf w.first, depth := d, fill := p[11],
                     queue := [], ended := false })
  | some _, none => none
  | none, _ => none

/-- The context OPEN_WRITE makes (R10), if its parameters pass check 3 of R11. -/
def Params.writeContext (p : Params) : Option (Window × Stream) :=
  match p.window with
  | some w =>
    some (w, .write { window := w, cursor := w.first, linger := p.byteAt 10, lingerTimer := none,
                      assembly := none, state := .opened })
  | none => none

/-- The last two checks of R11 and the opening of the stream. -/
def State.openContext (s : State) (n : StreamId) (w : Window) (c : Stream) : State :=
  if s.seq.memory ≠ .started then s.complete .notStarted
  else if w.valid s.timing.fittedSize then State.finish s ((s.setStream n c).complete .ok)
  else s.complete .outOfWindow

/-- The checks of R11 in their order. -/
def State.openStream (s : State) (p : Params) (made : Option (Window × Stream)) : State :=
  match p.stream with
  | none => s.complete .badStream
  | some n =>
    match s.streams[n], made with
    | .closed, some (w, c) => s.openContext n w c
    | .closed, none => s.complete .badParam
    | .read _, _ => s.complete .wrongState
    | .write _, _ => s.complete .wrongState

def runOpenRead (p : Params) (s : State) : State := s.openStream p p.readContext

def runOpenWrite (p : Params) (s : State) : State := s.openStream p p.writeContext

/-! ### SEEK, FLUSH and CLOSE (R16, R50 to R55, R69 to R73) -/

/-- The target lies in the window (R50, R69). -/
def Window.holds (w : Window) (t : Nat) : Bool := decide (w.first ≤ t ∧ t ≤ w.last)

def runSeek (p : Params) (s : State) : State :=
  match p.stream with
  | none => s.complete .badStream
  | some n =>
    match s.streams[n] with
    | .closed => s.complete .wrongState
    | .read r =>
      if r.window.holds p.target then State.finish s ((s.seekRead n r p.target).complete .ok)
      else s.complete .outOfWindow
    | .write w =>
      if w.window.holds p.target then State.finish s (s.writeStreamCommand n w .seek p)
      else s.complete .outOfWindow

def runFlush (p : Params) (s : State) : State :=
  match p.stream with
  | none => s.complete .badStream
  | some n =>
    match s.streams[n] with
    | .closed => s.complete .wrongState
    | .read _ => s.complete .wrongState
    | .write w => State.finish s (s.writeStreamCommand n w .flush p)

def runClose (p : Params) (s : State) : State :=
  match p.stream with
  | none => s.complete .badStream
  | some n =>
    match s.streams[n] with
    | .closed => s.complete .wrongState
    | .read r => State.finish s ((s.closeRead n r).complete .ok)
    | .write w => State.finish s (s.writeStreamCommand n w .close p)

/-! ### QUERY_STREAM (R18) -/

/-- The eight bytes of a stream's picture: state code, held count, cursor, and the fetch cursor of a
read stream. -/
def queryResult (c : Stream) (cursor fetchCursor : Nat) : Vector Byte 8 :=
  #v[c.stateCode, BitVec.ofNat 8 c.heldCount, byteOfNumber cursor 0, byteOfNumber cursor 1,
     byteOfNumber cursor 2, byteOfNumber fetchCursor 0, byteOfNumber fetchCursor 1,
     byteOfNumber fetchCursor 2]

def Stream.picture (c : Stream) : Vector Byte 8 :=
  match c with
  | .closed => Vector.replicate 8 0x00#8
  | .read r => queryResult c r.cursor r.fetchCursor
  | .write w => queryResult c w.cursor 0

def runQueryStream (p : Params) (s : State) : State :=
  match p.stream with
  | none => s.complete .badStream
  | some n => (s.writeResults s.streams[n].picture).complete .ok

/-! ### SYNC (R81) -/

/-- Every entry present is tagged; with none present SYNC_DONE is set. -/
def State.tagOrReport (s : State) : State :=
  if s.post.entries.isEmpty then s.mapEvents Events.setSyncDone else s.withPost s.post.tagAll

def runSync (s : State) : State := s.tagOrReport.complete .ok

/-! ### SUBMIT_JOB (R141) -/

/-- The job's ranges lie below the fitted size (R141, check 3). -/
def Job.fits (j : Job) (fitted : Nat) : Bool :=
  match j.work with
  | .copy a b => decide (a + j.length ≤ fitted ∧ b + j.length ≤ fitted)
  | .fill a _ => decide (a + j.length ≤ fitted)
  | .scan a _ _ _ => decide (a + j.length ≤ fitted)
  | .compare a b => decide (a + j.length ≤ fitted ∧ b + j.length ≤ fitted)

/-- The job joins the job queue at its tail; an IDLE engine starts it in the same event (R141,
R143). -/
def State.submit (s : State) (j : Job) : State := s.mapEngine fun e => { e with jobs := e.jobs ++ [j] }

def runSubmitJob (p : Params) (s : State) : State :=
  match p.job with
  | none => s.complete .badParam
  | some j =>
    if s.seq.memory ≠ .started then s.complete .notStarted
    else if !j.fits s.timing.fittedSize then s.complete .outOfWindow
    else if Config.jobPlaces ≤ s.engine.jobs.length then s.complete .queueFull
    else State.finish s ((s.submit j).complete .ok)

/-! ### CANCEL_JOB (R156) -/

/-- The queued jobs that carry a tag. -/
def Engine.queuedWith (e : Engine) (tag : Byte) : List Job := e.jobs.filter fun j => j.tag = tag

/-- The active job carries a tag. -/
def Engine.activeWith (e : Engine) (tag : Byte) : Bool :=
  match e.active with
  | some j => decide (j.job.tag = tag)
  | none => false

/-- The places free in the completion queue; a COMPLETING engine leaves none free (R156, check 2). -/
def Engine.freePlaces (e : Engine) : Nat :=
  match e.state with
  | .completing _ => 0
  | .idle => Config.jobPlaces - e.completions.length
  | .acquiring _ => Config.jobPlaces - e.completions.length
  | .running _ => Config.jobPlaces - e.completions.length

/-- The record of a job cancelled in the job queue (R156, step 1). -/
def Job.cancelledRecord (j : Job) : CompletionRecord :=
  { tag := j.tag, kind := j.work.kind, outcome := .cancelled, value := 0 }

/-- The queued jobs with the tag leave the job queue, each with its CANCELLED record (R156, step 1). -/
def Engine.removeQueued (e : Engine) (tag : Byte) : Engine :=
  { e with
    jobs := e.jobs.filter fun j => j.tag ≠ tag
    completions := e.completions ++ (e.queuedWith tag).map Job.cancelledRecord }

/-- The active job's cancel flag is set, and its presented request withdrawn (R156, step 2, R157). -/
def Engine.cancelActive (e : Engine) (tag : Byte) : Engine :=
  if e.activeWith tag then (e.mapActive fun j => { j with cancel := true }).withdrawRequest else e

/-- RESULT0 and RESULT1; the others are left (R156, step 3). -/
def cancelResult (r : Vector Byte 8) (removed : Nat) (flagged : Bool) : Vector Byte 8 :=
  (r.set 0 (BitVec.ofNat 8 removed)).set 1 (if flagged then 0x01#8 else 0x00#8)

def runCancelJob (p : Params) (s : State) : State :=
  let tag := p[0]
  let removed := (s.engine.queuedWith tag).length
  if removed = 0 ∧ !s.engine.activeWith tag then s.complete .noSuchJob
  else if s.engine.freePlaces < removed then s.complete .queueFull
  else State.finish s
    (((s.mapEngine fun e => (e.removeQueued tag).cancelActive tag).writeResults
      (cancelResult s.port.result removed (s.engine.activeWith tag))).complete .ok)

/-! ### TAKE_COMPLETION (R155) -/

/-- The engine with the head record taken: a COMPLETING engine's record joins the tail, and the engine
becomes IDLE (R155, step 1). -/
def Engine.takeHead (e : Engine) (rest : List CompletionRecord) : Engine :=
  match e.state with
  | .completing r => { e with state := .idle, completions := rest ++ [r] }
  | .idle => { e with completions := rest }
  | .acquiring _ => { e with completions := rest }
  | .running _ => { e with completions := rest }

/-- The eight RESULT bytes of a record (R155, step 2). -/
def CompletionRecord.bytes (r : CompletionRecord) (left : Nat) : Vector Byte 8 :=
  #v[r.tag, BitVec.ofNat 8 r.kind.code, BitVec.ofNat 8 r.outcome.code, byteOfNumber r.value 0,
     byteOfNumber r.value 1, byteOfNumber r.value 2, BitVec.ofNat 8 left, 0x00#8]

def runTakeCompletion (s : State) : State :=
  match s.engine.completions with
  | [] => s.complete .empty
  | r :: rest =>
    State.finish s
      (((s.mapEngine fun e => e.takeHead rest).writeResults
        (r.bytes (s.engine.takeHead rest).completions.length)).complete .ok)

/-! ### SET_TIMING, MEM_START and SET_CLOCK (R125, R127, R186) -/

def runSetTiming (p : Params) (s : State) : State :=
  if s.seq.memory ≠ .unstarted then s.complete .wrongState
  else match p.timing with
    | none => s.complete .badParam
    | some t => (s.withTiming t).complete .ok

def runMemStart (p : Params) (s : State) : State :=
  if s.seq.memory ≠ .unstarted then s.complete .wrongState else s.beginStartUp.stayExecuting .memStart p

def runSetClock (p : Params) (s : State) : State :=
  match p.divisor with
  | none => s.complete .badParam
  | some d => (s.withClock { s.clock with nextDivisor := some d }).complete .ok

/-! ### A write of COMMAND (R163) -/

/-- The command of a code, by the command code table; a code not in it completes with BAD_COMMAND. -/
def runCommand (code : Byte) (p : Params) (s : State) : State :=
  if code = 0x01#8 then runOpenRead p s
  else if code = 0x02#8 then runOpenWrite p s
  else if code = 0x03#8 then runSeek p s
  else if code = 0x04#8 then runFlush p s
  else if code = 0x05#8 then runClose p s
  else if code = 0x06#8 then runQueryStream p s
  else if code = 0x08#8 then runSync s
  else if code = 0x10#8 then runSubmitJob p s
  else if code = 0x11#8 then runCancelJob p s
  else if code = 0x12#8 then runTakeCompletion s
  else if code = 0x20#8 then runSetTiming p s
  else if code = 0x21#8 then runMemStart p s
  else if code = 0x22#8 then runSetClock p s
  else s.complete .badCommand

/-- A write of COMMAND is taken in IDLE, refused as busy in EXECUTING, and ignored in RESETTING
(R163). -/
def commandWrite (code : Byte) (s : State) : State :=
  match s.port.state with
  | .idle => runCommand code s.port.param s
  | .executing _ => s.mapEvents Events.setCmdRefused
  | .resetting => s

/-! ### Soft reset (R169) -/

/-- The owner's fetch carries the discard mark from this moment (R122). -/
def Bank.discardAtReset (b : Bank) : Bank :=
  { b with owner := b.owner.map fun o => if o.op = .fetch then { o with discard := true } else o }

/-- Every bank keeps its owner; the grant position becomes 9 (R122). -/
def Sequencer.softReset (q : Sequencer) : Sequencer :=
  { q with banks := q.banks.map Bank.discardAtReset, grantPos := 9 }

/-- A fetch lands in the slot. -/
def Sequencer.fetchesInto (q : Sequencer) (k : SlotId) : Bool :=
  q.banks.toList.any fun b => match b.owner with
    | some o => decide (o.op = .fetch ∧ o.slot = k)
    | none => false

/-- What becomes of a slot at entry to RESETTING, by its owner (R32). -/
def State.resetOwner (s : State) (k : SlotId) : Owner :=
  if s.seq.fetchesInto k then .discard
  else if s.post.entries.any fun e => e.storesFrom k then .post
  else .free

/-- The pool at entry to RESETTING: the claim list empty, the grant position 8 (R32). -/
def State.resetPool (s : State) : Pool :=
  { slots := Vector.ofFn fun k => { s.pool.slots[k] with owner := s.resetOwner k }
    claims := Vector.replicate 9 none
    grantPos := 8 }

/-- The Command Port at entry to RESETTING: the parameter block is kept (R169). -/
def Port.softReset (p : Port) : Port :=
  { p with result := Vector.replicate 8 0x00#8, lastResult := .ok, state := .resetting }

/-- Every stream is CLOSED (R57, R82). -/
def State.closeStreams (s : State) : State := { s with streams := Vector.replicate 8 .closed }

/-- Entry to RESETTING (R169, R32, R83, R122, R132, R159). -/
def State.enterResetting (s : State) : State :=
  (((((((s.withPool s.resetPool).closeStreams).withPost s.post.softReset).withEngine Engine.reset).mapSeq
    Sequencer.softReset).withPort s.port.softReset)).abandonStartUp

/-- A write of CONTROL with bit 0 set starts a soft reset in IDLE and EXECUTING; in RESETTING it is
ignored (R168). -/
def controlWrite (v : Byte) (s : State) : State :=
  if v.getLsbD 0 && !s.isResetting then State.finish s s.enterResetting else s

end Sys2Proof.Machine
end

