-- ==== Sys2Proof/Machine/Window.lean ====
section
/-! DEFINITION. The Host Bus Interface (11_host_bus_clock_and_register_window.md): the byte each position
shows, a read and a write of each position as one event, and the ends of a bus cycle. -/

namespace Sys2Proof.Machine

/-! ### The bytes that the positions show (R188) -/

/-- CMD_STATUS (R165). -/
def Port.statusByte (p : Port) : Byte :=
  match p.state with
  | .executing _ => 0x80#8 ||| BitVec.ofNat 8 p.lastResult.code
  | .idle => BitVec.ofNat 8 p.lastResult.code
  | .resetting => BitVec.ofNat 8 p.lastResult.code

/-- The memory state's code (R188). -/
def MemoryState.code : MemoryState → Nat
  | .unstarted => 0
  | .starting => 1
  | .started => 2

/-- MEMORY_STATUS (R139, R188). -/
def State.memoryStatus (s : State) : Byte :=
  BitVec.ofNat 8 (s.seq.memory.code + (if s.renewal.active then 4 else 0) + 16 * s.renewal.debt)

/-- JOB_STATUS (R160, R188). -/
def Engine.status (e : Engine) : Byte :=
  BitVec.ofNat 8 (e.jobs.length + (if e.isIdle then 0 else 8) + 16 * e.completions.length)

/-- CONTROL: bit 1 while RESETTING (R168). -/
def State.controlByte (s : State) : Byte := if s.isResetting then 0x02#8 else 0x00#8

/-- The byte a register position shows (R188). The write-only position and the positions that are no
register show 0x00 (R183). -/
def State.registerByte (s : State) : Position → Byte
  | .param i => s.port.param[i]
  | .command => 0x00#8
  | .cmdStatus => s.port.statusByte
  | .result i => s.port.result[i]
  | .eventPending => s.eventPending
  | .eventEnable => s.eventEnableByte
  | .streamEvent n => s.streamFlags[n].byte
  | .streamState n => s.streams[n].stateByte
  | .streamEventEnable => s.streamEventEnableByte
  | .memoryStatus => s.memoryStatus
  | .poolFree => BitVec.ofNat 8 s.pool.freeCount
  | .postCount => BitVec.ofNat 8 s.post.entries.length
  | .jobStatus => s.engine.status
  | .control => s.controlByte
  | .data _ => 0x00#8
  | .unmapped _ => 0x00#8

/-! ### Data ports (R17, R45 to R49, R60 to R67, R170, R182) -/

/-- An access that does not suit the stream's state or kind (R17). -/
def State.misuse (s : State) (drive : Option Byte) : State :=
  (s.withBus (.answered drive)).mapEvents Events.setPortMisuse

/-- A read of DATAn. -/
def dataRead (n : StreamId) (s : State) : State :=
  if s.isResetting then s.withBus (.answered (some 0xFF#8))
  else match s.streams[n] with
    | .closed => s.misuse (some 0x00#8)
    | .write _ => s.misuse (some 0x00#8)
    | .read r => if r.ready then State.finish s (s.deliver n r) else s.starvedRead n r

/-- A write of DATAn to an open write stream; the cycle is answered unless it is stretched. -/
def writeStreamWrite (n : StreamId) (w : WriteStream) (v : Byte) (s : State) : State :=
  match w.state with
  | .opened => State.finish s (s.writeInOpen n w v)
  | .blocked _ => s.writeTurnedAway n w v
  | .draining => s.writeTurnedAway n w v
  | .ended => s.writeTurnedAway n w v

/-- A write of DATAn. -/
def dataWrite (n : StreamId) (v : Byte) (s : State) : State :=
  let t := s.withBus (.answered none)
  if s.isResetting then t
  else match s.streams[n] with
    | .closed => s.misuse none
    | .read _ => s.misuse none
    | .write w => writeStreamWrite n w v t

/-! ### Register writes (R162, R174, R177, R178, R183) -/

/-- The effect of a write of a position that is no data port. -/
def registerWrite (p : Position) (v : Byte) (s : State) : State :=
  match p with
  | .param i => s.withPort { s.port with param := s.port.param.set i.val v i.isLt }
  | .command => commandWrite v s
  | .eventPending => s.mapEvents fun e => e.writeOneToClear v
  | .eventEnable => s.mapEvents fun e => { e with enable := v.setWidth 7 }
  | .streamEvent n => s.mapFlags n fun f => f.writeOneToClear v
  | .streamEventEnable => s.mapEvents fun e => { e with streamEnable := v.setWidth 4 }
  | .control => controlWrite v s
  | .unmapped _ => s.mapEvents Events.setPortMisuse
  | .cmdStatus | .result _ | .streamState _ | .memoryStatus | .poolFree | .postCount | .jobStatus => s
  | .data _ => s

/-! ### Accesses (R181) -/

/-- A read access at a position: one event, answered at once unless a data port stretches it. It begins
only while /RESET is high and no cycle is stretched; it implies that the access before it has ended
(log entry 3). -/
def busRead (p : Position) (s : State) : State :=
  if s.accessCanBegin then
    match p with
    | .data n => dataRead n s
    | .unmapped _ => s.misuse (some 0x00#8)
    | .param _ | .command | .cmdStatus | .result _ | .eventPending | .eventEnable | .streamEvent _
    | .streamState _ | .streamEventEnable | .memoryStatus | .poolFree | .postCount | .jobStatus
    | .control => s.withBus (.answered (some (s.registerByte p)))
  else s

/-- A write access at a position, likewise. -/
def busWrite (p : Position) (v : Byte) (s : State) : State :=
  if s.accessCanBegin then
    match p with
    | .data n => dataWrite n v s
    | .param _ | .command | .cmdStatus | .result _ | .eventPending | .eventEnable | .streamEvent _
    | .streamState _ | .streamEventEnable | .memoryStatus | .poolFree | .postCount | .jobStatus
    | .control | .unmapped _ => registerWrite p v (s.withBus (.answered none))
  else s

/-- An access at a position. -/
def busAccess (p : Position) (a : Access) (s : State) : State :=
  match a with
  | .read => busRead p s
  | .write v => busWrite p v s

/-! ### The ends of a cycle (R182) -/

/-- The fill byte that a stretched read of stream n answers with at its expiry (R47). -/
def State.fillByte (s : State) (n : StreamId) : Byte :=
  match s.streams[n] with
  | .read r => r.fill
  | .write _ => 0x00#8
  | .closed => 0x00#8

/-- A stretched cycle ends with nothing taken: UNDERRUN for a read, OVERRUN for a write (R182). -/
def State.loseAccess (s : State) (n : StreamId) (a : Access) : State :=
  match a with
  | .read => s.mapFlags n StreamFlags.setUnderrun
  | .write _ => s.mapFlags n StreamFlags.setOverrun

/-- What an expired stretch drives: the fill byte for a read, nothing for a write (R182). -/
def State.expiryAnswer (s : State) (n : StreamId) (a : Access) : Option Byte :=
  match a with
  | .read => some (s.fillByte n)
  | .write _ => none

end Sys2Proof.Machine
end

