-- ==== Sys2Proof/Machine/AccessRows.lean ====
section
/-! DEFINITION. The rows that are the other bus accesses, and the ends of a bus cycle (11, sections 11.1 to
11.3; 10). -/

namespace Sys2Proof.Machine

/-- DATA_PORT_READ (R45, R47, R49, R17, R170). -/
def execDataPortRead (n : StreamId) (s : State) : Host.Outcome State Fault Refusal := .next (busRead (.data n) s)

/-- DATA_PORT_WRITE (R60, R66, R67, R17, R170). -/
def execDataPortWrite (n : StreamId) (v : Byte) (s : State) : Host.Outcome State Fault Refusal :=
  .next (busWrite (.data n) v s)

/-- EVENT_PENDING_WRITE (R174). -/
def execEventPendingWrite (v : Byte) (s : State) : Host.Outcome State Fault Refusal :=
  .next (busWrite .eventPending v s)

/-- STREAM_EVENT_WRITE (R177). -/
def execStreamEventWrite (n : StreamId) (v : Byte) (s : State) : Host.Outcome State Fault Refusal :=
  .next (busWrite (.streamEvent n) v s)

/-- EVENT_ENABLE_WRITE (R178). -/
def execEventEnableWrite (v : Byte) (s : State) : Host.Outcome State Fault Refusal :=
  .next (busWrite .eventEnable v s)

/-- STREAM_EVENT_ENABLE_WRITE (R178). -/
def execStreamEventEnableWrite (v : Byte) (s : State) : Host.Outcome State Fault Refusal :=
  .next (busWrite .streamEventEnable v s)

/-- UNMAPPED_ACCESS (R183). -/
def execUnmappedAccess (k : Fin 6) (a : Access) (s : State) : Host.Outcome State Fault Refusal :=
  .next (busAccess (.unmapped k) a s)

/-- REGISTER_WRITE: a write of a position with no behaviour of its own, and the reads of the register
positions (R162, R183, R188, log entry 3). -/
def execRegisterWrite (p : Position) (a : Access) (s : State) : Host.Outcome State Fault Refusal :=
  .next (busAccess p a s)

/-- The processor removes /CS or its strobe while the cycle is stretched: as an expiry at that moment,
with nothing driven (R182). -/
def strobeRemoved (s : State) : State :=
  match s.bus with
  | .stretched n a _ => (s.loseAccess n a).withBus .idle
  | .answered _ => s
  | .idle => s

/-- STROBE_REMOVED_EARLY (R182). -/
def execStrobeRemovedEarly (s : State) : Host.Outcome State Fault Refusal := .next (whileRunning strobeRemoved s)

/-- The stretch timer has no boundary left: the fill byte with UNDERRUN, or the byte dropped with
OVERRUN (R182, R47, R66). -/
def stretchExpiry (s : State) : State :=
  match s.bus with
  | .stretched n a 0 => (s.loseAccess n a).withBus (.answered (s.expiryAnswer n a))
  | .stretched _ _ (_ + 1) => s
  | .answered _ => s
  | .idle => s

/-- STRETCH_TIMER_EXPIRY (R182). -/
def execStretchTimerExpiry (s : State) : Host.Outcome State Fault Refusal := .next (whileRunning stretchExpiry s)

/-- The processor ends an answered cycle: the data lines are released (R181). -/
def busCycleEnd (s : State) : State :=
  match s.bus with
  | .answered _ => s.withBus .idle
  | .stretched _ _ _ => s
  | .idle => s

/-- BUS_CYCLE_END (R181). -/
def execBusCycleEnd (s : State) : Host.Outcome State Fault Refusal := .next (whileRunning busCycleEnd s)

end Sys2Proof.Machine
end

