-- ==== Sys2Proof/Machine/CommandRows.lean ====
section
/-! DEFINITION. The rows that are writes of COMMAND or of CONTROL (R163, R168). Each is the bus access that
carries its code; the effect stands in Machine/Commands.lean. -/

namespace Sys2Proof.Machine

/-- OPEN_READ: COMMAND written with 0x01 (R9, R11). -/
def execOpenRead (s : State) : Host.Outcome State Fault Refusal := .next (busWrite .command 0x01#8 s)

/-- OPEN_WRITE: COMMAND written with 0x02 (R10, R11). -/
def execOpenWrite (s : State) : Host.Outcome State Fault Refusal := .next (busWrite .command 0x02#8 s)

/-- SEEK: COMMAND written with 0x03 (R50 to R53, R69, R72). -/
def execSeek (s : State) : Host.Outcome State Fault Refusal := .next (busWrite .command 0x03#8 s)

/-- FLUSH: COMMAND written with 0x04 (R71). -/
def execFlush (s : State) : Host.Outcome State Fault Refusal := .next (busWrite .command 0x04#8 s)

/-- CLOSE: COMMAND written with 0x05 (R55, R73). -/
def execClose (s : State) : Host.Outcome State Fault Refusal := .next (busWrite .command 0x05#8 s)

/-- QUERY_STREAM: COMMAND written with 0x06 (R18). -/
def execQueryStream (s : State) : Host.Outcome State Fault Refusal := .next (busWrite .command 0x06#8 s)

/-- SYNC: COMMAND written with 0x08 (R81). -/
def execSync (s : State) : Host.Outcome State Fault Refusal := .next (busWrite .command 0x08#8 s)

/-- SUBMIT_JOB: COMMAND written with 0x10 (R141). -/
def execSubmitJob (s : State) : Host.Outcome State Fault Refusal := .next (busWrite .command 0x10#8 s)

/-- CANCEL_JOB: COMMAND written with 0x11 (R156). -/
def execCancelJob (s : State) : Host.Outcome State Fault Refusal := .next (busWrite .command 0x11#8 s)

/-- TAKE_COMPLETION: COMMAND written with 0x12 (R155). -/
def execTakeCompletion (s : State) : Host.Outcome State Fault Refusal := .next (busWrite .command 0x12#8 s)

/-- SET_TIMING: COMMAND written with 0x20 (R125). -/
def execSetTiming (s : State) : Host.Outcome State Fault Refusal := .next (busWrite .command 0x20#8 s)

/-- MEM_START: COMMAND written with 0x21 (R127). -/
def execMemStart (s : State) : Host.Outcome State Fault Refusal := .next (busWrite .command 0x21#8 s)

/-- SET_CLOCK: COMMAND written with 0x22 (R186). -/
def execSetClock (s : State) : Host.Outcome State Fault Refusal := .next (busWrite .command 0x22#8 s)

/-- BAD_COMMAND: COMMAND written with a code that is not in the table (R163). -/
def execBadCommand (code : Byte) (s : State) : Host.Outcome State Fault Refusal := .next (busWrite .command code s)

/-- SOFT_RESET: CONTROL written with bit 0 set (R168, R169). -/
def execSoftReset (v : Byte) (s : State) : Host.Outcome State Fault Refusal := .next (busWrite .control v s)

end Sys2Proof.Machine
end

