-- ==== Sys2Proof/Machine/Intervals.lean ====
section
/-! DEFINITION. The ends of the intervals counted in MCLK (R107): settles, the fetch return (R113), the end
of write data and the store completion (R114, R79), the renewal's and the option load's end (R135,
R128). As a command each is the report that the interval has passed (log entry 2). In the MCLK of an
interval's end the command pins carry IDLE unless a step is issued (R104). -/

namespace Sys2Proof.Machine

/-! ### Settles -/

/-- Open settle ends: the bank is OPEN and, having an owner, ready to burst (R107, R112). -/
def State.endOpenSettle (s : State) (b : BankId) : State :=
  let t := (s.setBank b { s.seq.banks[b] with state := .opened, left := 0 }).idlePins
  State.finish s (if s.seq.banks[b].owned then t.mapSeq fun q => q.joinBurst b else t)

def openSettleEnd (b : BankId) (s : State) : State :=
  if s.seq.banks[b].state = .opening then s.endOpenSettle b else s

/-- Close settle ends: the bank is CLOSED, and OPEN ROW is due if it has an owner (R107). -/
def State.endCloseSettle (s : State) (b : BankId) : State :=
  let t := (s.setBank b { s.seq.banks[b] with state := .closed, left := 0 }).idlePins
  State.finish s (if s.seq.banks[b].owned then t.addDue b .openRow else t)

/-- The close settle of the start-up CLOSE ALL ends; an abandoned one only runs out (R128, R132). -/
def State.endStartClose (s : State) : State :=
  ((s.withStartClose none).withStartUp s.startUp.afterClose).idlePins

def closeSettleEnd (which : SettleOf) (s : State) : State :=
  match which with
  | .bank b => if s.seq.banks[b].state = .closing then s.endCloseSettle b else s
  | .startUp => if s.startClose.isSome then s.endStartClose else s

/-! ### Fetch return (R113) -/

/-- The merged line is handed to the read entry or to the source buffer that the owner record names
(R42, R146, R90). -/
def State.handOn (s : State) (o : OwnerRecord) : State :=
  let merged := s.mergeOnReturn o.line (Memory.readLine s.memory o.line)
  if h : o.position.val < 8 then s.entryReturn ⟨o.position.val, h⟩ o.slot merged
  else s.bufferReturn o.slot merged

/-- The line is handed on, or dropped and its DISCARD slot released (R113, step 1, R118). -/
def State.takeReturn (s : State) (o : OwnerRecord) : State :=
  if o.discard then s.release o.slot else s.handOn o

/-- The return as one event: the line is handed on, the data bus freed and the owner released (R113,
R115). -/
def State.endFetch (s : State) (b : BankId) (o : OwnerRecord) : State :=
  State.finish s (((s.takeReturn o).freeBus).releaseBank b).idlePins

/-- The owner whose read burst is under way in bank b. -/
def State.readingOwner (s : State) (b : BankId) : Option OwnerRecord :=
  if s.seq.banks[b].state = .reading then s.seq.banks[b].owner else none

/-! ### Write data and store completion (R114, R79) -/

/-- The eighth word is sent: the bank is RECOVERING and the data bus free (R114). -/
def State.endWriteData (s : State) (b : BankId) : State :=
  State.finish s
    (((s.setBank b { s.seq.banks[b] with state := .recovering, left := s.timing.writeRecovery }).freeBus).withPins
      MemoryPins.reset)

def writeDataEnd (b : BankId) (s : State) : State :=
  if s.seq.banks[b].state = .writing then s.endWriteData b else s

/-- The store reaches the memory: the marked bytes of the slot, and no others (R79). -/
def State.store (s : State) (o : OwnerRecord) : State :=
  s.withMemory (Memory.writeLine s.memory o.line o.mask (s.bytesOf o.slot))

/-- SYNC_DONE is set if the stored entry was the last tagged one (R79, R81). -/
def State.reportSync (s : State) (slot : SlotId) : State :=
  if s.post.lastTaggedStored slot then s.mapEvents Events.setSyncDone else s

/-- The entry leaves the queue and its slot is released (R79). -/
def State.removeStored (s : State) (slot : SlotId) : State :=
  (s.withPost (s.post.removeStored slot)).release slot

/-- The store completion as one event (R79, R114, R115). -/
def State.endStore (s : State) (b : BankId) (o : OwnerRecord) : State :=
  State.finish s (((((s.store o).reportSync o.slot).removeStored o.slot).releaseBank b).idlePins)

/-- The owner whose write recovery is running in bank b. -/
def State.recoveringOwner (s : State) (b : BankId) : Option OwnerRecord :=
  if s.seq.banks[b].state = .recovering then s.seq.banks[b].owner else none

/-! ### Renewal and option load (R135, R120, R128) -/

/-- The renew duration ends: of a renewal, of start-up phase 3, or of an abandoned step (R120, R135,
R128, R132). -/
def State.endRenew (s : State) : State :=
  State.finish s
    (((s.mapSeq fun q => { q with wide := .none, wideLeft := 0 }).withStartUp s.startUp.afterRenew).completeRenewal).idlePins

def renewalComplete (s : State) : State := if s.seq.wide = .renewing then s.endRenew else s

/-- The memory-wide step ends with the option load. -/
def State.endLoad (s : State) : State := (s.mapSeq fun q => { q with wide := .none, wideLeft := 0 }).idlePins

/-- The option load ends: of start-up phase 4, or of an abandoned step (R128, R132). -/
def optionLoadEnd (s : State) : State :=
  if s.seq.wide = .loading then
    (if s.startUp = .loadRunning then s.endLoad.memoryStarted else s.endLoad)
  else s

end Sys2Proof.Machine
end

