-- ==== Sys2Proof/Machine/MemorySteps.lean ====
section
/-! DEFINITION. The steps on the memory pins (06, sections 6.3, 6.6, 6.9; 07, section 7.3): what each drives
(R104), when it may be issued (R105, R106), and its effect on the bank table. -/

namespace Sys2Proof.Machine

/-! ### The pins (R104) -/

/-- The pins of a step: /MSEL low, the other levels as given. -/
def CommandPins.step (mstb1 mstb0 mrw : Bool) (mbk : BitVec 2) (ma : BitVec 12) : CommandPins :=
  { msel := false, mstb1 := mstb1, mstb0 := mstb0, mrw := mrw, mbk := mbk, ma := ma }

/-- A bank's number on MBK1 and MBK0. -/
def bankPins (b : BankId) : BitVec 2 := BitVec.ofNat 2 b.val

/-- A line within its row on MA8 to MA3 (R104). -/
def linePins (line : Nat) : BitVec 12 := BitVec.ofNat 12 (lineInRow line * 8)

def pinsOpenRow (b : BankId) (row : Nat) : CommandPins :=
  CommandPins.step false true true (bankPins b) (BitVec.ofNat 12 row)

def pinsCloseRow (b : BankId) : CommandPins := CommandPins.step false true false (bankPins b) 0#12

def pinsCloseAll : CommandPins := CommandPins.step false true false 0#2 0x800#12

def pinsReadBurst (b : BankId) (line : Nat) : CommandPins :=
  CommandPins.step true false true (bankPins b) (linePins line)

def pinsWriteBurst (b : BankId) (line : Nat) : CommandPins :=
  CommandPins.step true false false (bankPins b) (linePins line)

def pinsRenewAll : CommandPins := CommandPins.step false false true 0#2 0#12

def pinsLoadOptions (t : TimingSet) : CommandPins := CommandPins.step false false false 0#2 t.optionWord

/-- A step occupies the command pins (R104). -/
def State.drive (s : State) (p : CommandPins) : State := s.withPins { s.pins with command := p }

/-- Word k of a write burst: byte 2k low, byte 2k + 1 high, a mask pin high for a byte that is not
marked (R100). -/
def burstWord (bytes : Line) (mask : ByteMask) (k : Fin 8) : DataWord :=
  { low := bytes[2 * k.val]'(by omega), high := bytes[2 * k.val + 1]'(by omega),
    maskLow := !mask.getLsbD (2 * k.val), maskHigh := !mask.getLsbD (2 * k.val + 1) }

/-- The eight words of a write burst, word 0 first (R100). -/
def burstWords (bytes : Line) (mask : ByteMask) : List DataWord := (List.finRange 8).map (burstWord bytes mask)

/-- MDM0 and MDM1 in this MCLK: those of a write burst's word, and low for a read burst's (R100). The manual
gives their levels for the words of a burst alone: low in every other MCLK (with no word on the data pins,
through the read latency, while /RESET is low) is a DESIGN CHOICE (log entry 26). -/
def MemoryPins.masks (p : MemoryPins) : Bool × Bool :=
  match p.words with
  | w :: _ => (w.maskLow, w.maskHigh)
  | [] => (false, false)

/-- Word k of a line as the memory drives it in a read burst (R100). -/
def State.memoryWord (s : State) (line k : Nat) : DataWord :=
  { low := Memory.read s.memory (line + 2 * k), high := Memory.read s.memory (line + 2 * k + 1),
    maskLow := false, maskHigh := false }

/-- The word that the memory drives for bank b in this MCLK: the first one read latency MCLK after READ
BURST, and one in each of the seven MCLK that follow (R104, R107); none while /RESET is low (R121). -/
def State.readWordOf (s : State) (b : BankId) : Option DataWord :=
  match s.seq.banks[b].state, s.seq.banks[b].owner with
  | .reading, some o =>
    let left := s.seq.banks[b].left
    if s.resetLow = false ∧ 1 ≤ left ∧ left ≤ 8 then some (s.memoryWord o.line (8 - left)) else none
  | _, _ => none

/-- What stands on MDQ15 to MDQ0 in this MCLK: a write burst's word, or the read burst's (R100, R105); nothing
while /RESET is low, which cuts every burst off (R121, R187). -/
def State.dataPins (s : State) : Option DataWord :=
  if s.resetLow then none
  else match s.pins.words with
    | w :: _ => some w
    | [] => (List.finRange 4).findSome? s.readWordOf

/-! ### Which step may go out (R105, R106) -/

/-- The step of bank b is the next to go out: the first that waits for the command pins, and no CLOSE ALL that
became due before it can go out (R106). -/
def State.headDue (s : State) (b : BankId) (st : BankStep) : Bool :=
  decide (s.seq.due.head? = some (b, st)) && !s.closeAllReady

/-- The step at the head leaves the list of those that wait, and soft reset's CLOSE ALL has one step less before
it. -/
def State.popDue (s : State) : State :=
  s.mapSeq fun q => { q with due := q.due.tail, resetCloseAll := q.resetCloseAll.map fun ahead => ahead - 1 }

/-- The owner for whom OPEN ROW of bank b may be issued (R105). -/
def State.openRowFor (s : State) (b : BankId) : Option OwnerRecord :=
  if s.headDue b .openRow && decide (s.seq.banks[b].state = .closed) && decide (s.seq.memory = .started) then
    s.seq.banks[b].owner
  else none

/-- CLOSE ROW of bank b may be issued (R105). -/
def State.closeRowReady (s : State) (b : BankId) : Bool :=
  s.headDue b .closeRow && decide (s.seq.banks[b].state = .opened)

/-- The owner for whom a burst of bank b may be issued: the bank is OPEN on the owner's row and at the
head of the burst order, and the data bus is held for it (R105, R106). -/
def State.burstFor (s : State) (b : BankId) (op : MemOp) : Option OwnerRecord :=
  match s.seq.banks[b].owner with
  | some o =>
    if s.headDue b .burst && decide (s.seq.banks[b].state = .opened) &&
        decide (s.seq.banks[b].openRow = some (rowOf o.line)) && decide (s.seq.burstOrder.head? = some b) &&
        decide (s.seq.dataBus = some b) && decide (o.op = op) then some o
    else none
  | none => none

/-! ### The effects (R104) -/

/-- OPEN ROW: the bank to OPENING, the open row set, the row age timer from zero, close due no. -/
def State.issueOpenRow (s : State) (b : BankId) (o : OwnerRecord) : State :=
  ((s.setBank b { s.seq.banks[b] with
      state := .opening, openRow := some (rowOf o.line), left := s.timing.openSettle,
      rowAge := some s.timing.rowAgeLimit, closeDue := false }).popDue).drive (pinsOpenRow b (rowOf o.line))

/-- A bank whose row is being closed: CLOSING, the open row absent, the row age timer stopped, close
due no (R104, R117, R119). -/
def Bank.closing (r : Bank) (settle : Nat) : Bank :=
  { r with state := .closing, openRow := none, left := settle, rowAge := none, closeDue := false }

/-- CLOSE ROW. -/
def State.issueCloseRow (s : State) (b : BankId) : State :=
  ((s.setBank b (s.seq.banks[b].closing s.timing.closeSettle)).popDue).drive (pinsCloseRow b)

/-- READ BURST: the bank to READING; it leaves the burst order, and the data bus stays held (R112). -/
def State.issueReadBurst (s : State) (b : BankId) (o : OwnerRecord) : State :=
  (((s.setBank b { s.seq.banks[b] with state := .reading, left := s.timing.readLatency + 8 }).popDue).mapSeq
    fun q => { q with burstOrder := q.burstOrder.tail }).drive (pinsReadBurst b o.line)

/-- WRITE BURST: the bank to WRITING; word 0 is driven in this MCLK and one in each of the seven that
follow (R104, R114). -/
def State.issueWriteBurst (s : State) (b : BankId) (o : OwnerRecord) : State :=
  (((s.setBank b { s.seq.banks[b] with state := .writing, left := 8 }).popDue).mapSeq
    fun q => { q with burstOrder := q.burstOrder.tail }).withPins
      { command := pinsWriteBurst b o.line, words := burstWords (s.bytesOf o.slot) o.mask }

/-- A bank at a CLOSE ALL: an OPEN one closes as for CLOSE ROW, a CLOSED one is not touched (R119). -/
def Bank.closeAll (r : Bank) (settle : Nat) : Bank := if r.state = .opened then r.closing settle else r

/-- The step would close a row that CLOSE ALL closes: CLOSE ROW of an OPEN bank. -/
def Sequencer.closedWithAll (q : Sequencer) (d : BankId × BankStep) : Bool :=
  decide (d.2 = .closeRow) && decide (q.banks[d.1].state = .opened)

/-- The CLOSE ALL of a renewal or of soft reset: one step serves both (R119). A CLOSE ROW that became due after it
for a row that it closes has nothing left to close and waits no longer (log entry 17). -/
def State.issueCloseAll (s : State) : State :=
  (s.mapSeq fun q =>
    { q with
      banks := q.banks.map fun r => r.closeAll s.timing.closeSettle
      due := q.due.filter fun d => !q.closedWithAll d
      resetCloseAll := none }).drive pinsCloseAll

/-- The CLOSE ALL of start-up phase 2 changes no bank record (R129). -/
def State.issueStartClose (s : State) : State :=
  ((s.withStartUp .closeSettling).withStartClose (some s.timing.closeSettle)).drive pinsCloseAll

/-- RENEW ALL: the memory-wide step to RENEWING (R120). -/
def State.issueRenewAll (s : State) : State :=
  ((s.mapSeq fun q => { q with wide := .renewing, wideLeft := s.timing.renewDuration }).withStartUp
    s.startUp.renewIssued).drive pinsRenewAll

/-- LOAD OPTIONS: the memory-wide step to LOADING (R120, R130). -/
def State.issueLoadOptions (s : State) : State :=
  ((s.mapSeq fun q => { q with wide := .loading, wideLeft := s.timing.optionLoad }).withStartUp
    .loadRunning).drive (pinsLoadOptions s.timing)

/-! ### The steps as events -/

def stepOpenRow (b : BankId) (s : State) : State :=
  match s.openRowFor b with
  | some o => s.issueOpenRow b o
  | none => s

def stepCloseRow (b : BankId) (s : State) : State := if s.closeRowReady b then s.issueCloseRow b else s

def stepReadBurst (b : BankId) (s : State) : State :=
  match s.burstFor b .fetch with
  | some o => s.issueReadBurst b o
  | none => s

def stepWriteBurst (b : BankId) (s : State) : State :=
  match s.burstFor b .store with
  | some o => s.issueWriteBurst b o
  | none => s

def stepCloseAll (s : State) : State :=
  if s.startCloseReady then s.issueStartClose
  else if s.closeAllReady then s.issueCloseAll
  else s

def stepRenewAll (s : State) : State := if s.renewAllReady then s.issueRenewAll else s

def stepLoadOptions (s : State) : State := if s.loadOptionsReady then s.issueLoadOptions else s

end Sys2Proof.Machine
end

