-- ==== Sys2Proof/Machine/Reset.lean ====
section
/-! DEFINITION. The /RESET pin (11, section 11.5; R121, R187): the fall, which cuts off every operation on
the memory pins, and the rise, at which every block takes its pin-reset values. -/

namespace Sys2Proof.Machine

/-- The marked bytes that a cut-off store has written: free values (log entry 6). -/
def cutMask (draw : Nat) (mask : ByteMask) : ByteMask :=
  BitVec.ofFnLE fun i : Fin 16 => mask.getLsbD i.val && Config.cutStoreByteWritten draw i.val

/-- The store that a bank is in the middle of, if any (R83). -/
def Bank.cutStore (r : Bank) : Option OwnerRecord :=
  match r.state, r.owner with
  | .writing, o => o
  | .recovering, o => o
  | .closed, _ | .opening, _ | .opened, _ | .reading, _ | .closing, _ => none

/-- A store cut off where it stands may have written part of its line (R83). -/
def State.cutOff (s : State) (r : Bank) : State :=
  match r.cutStore with
  | some o =>
    (s.withMemory (Memory.writeLine s.memory o.line (cutMask s.draws o.mask) (s.bytesOf o.slot))).withDraws (s.draws + 1)
  | none => s

/-- /RESET falls (R187, R121, R179): the stretched cycle ends, D7 to D0 are not driven, the flags and
enables are 0, the memory pins carry IDLE. -/
def State.fall (s : State) : State :=
  { s.seq.banks.toList.foldl State.cutOff s with
    resetLow := true
    bus := .idle
    events := Events.reset
    streamFlags := Vector.replicate 8 StreamFlags.none
    pins := MemoryPins.reset }

def pinReset (s : State) : State := if s.resetLow then s else s.fall

/-- The slots at pin reset: all FREE, their bytes not cleared (R31). -/
def Pool.freed (p : Pool) : Vector Slot 48 := p.slots.map fun x => { x with owner := .free }

/-- /RESET rises: every block takes its pin-reset values (R187). The queue of commands is the
sender's. -/
def State.rise (s : State) : State :=
  (State.pinResetValues s.pool.freed s.memory s.draws).withPending s.pending

def pinResetRelease (s : State) : State := if s.resetLow then s.rise else s

end Sys2Proof.Machine
end

