-- ==== Sys2Proof/Machine/Timers.lean ====
section
/-! DEFINITION. The timebase and its timers (11, section 11.4; R63, R117, R128, R133, R182). A timer holds
the boundaries left; its expiry comes when none is left (R185). -/

namespace Sys2Proof.Machine

/-! ### The microsecond boundary (R184 to R186) -/

/-- A running timer counts one boundary. -/
def countDown (t : Option Nat) : Option Nat := t.map fun n => n - 1

/-- The stretch timer counts one boundary (R182). -/
def Bus.countBoundary : Bus → Bus
  | .stretched n a left => .stretched n a (left - 1)
  | .answered d => .answered d
  | .idle => .idle

/-- The linger timer counts one boundary (R63). -/
def Stream.countBoundary : Stream → Stream
  | .write w => .write { w with lingerTimer := countDown w.lingerTimer }
  | .read r => .read r
  | .closed => .closed

/-- The row age timer counts one boundary (R117). -/
def Bank.countBoundary (b : Bank) : Bank := { b with rowAge := countDown b.rowAge }

/-- SETTLE counts one boundary (R128). -/
def StartUp.countBoundary : StartUp → StartUp
  | .settle n => .settle (n - 1)
  | p => p

/-- A divisor accepted by SET_CLOCK takes effect at a boundary, and the count starts again (R184,
R186). -/
def Clock.boundary (c : Clock) : Clock :=
  { divisor := c.nextDivisor.getD c.divisor, nextDivisor := none, clkCount := 0 }

/-- The boundary: every running timer counts it. -/
def microsecondBoundary (s : State) : State :=
  { s with
    bus := s.bus.countBoundary
    clock := s.clock.boundary
    streams := s.streams.map Stream.countBoundary
    seq := { s.seq with banks := s.seq.banks.map Bank.countBoundary }
    startUp := s.startUp.countBoundary
    renewal := { s.renewal with interval := countDown s.renewal.interval } }

/-! ### Expiries -/

/-- The linger timer of stream n expires (R63). -/
def lingerExpiry (n : StreamId) (s : State) : State :=
  match s.streams[n] with
  | .write w => if w.lingerTimer = some 0 then State.finish s (s.lingerPost n w) else s
  | .read _ => s
  | .closed => s

/-- The row age timer of an OPEN bank with no owner expires: CLOSE ROW is due (R117). -/
def State.ageClose (s : State) (b : BankId) : State :=
  let t := s.setBank b { s.seq.banks[b] with rowAge := none }
  if s.seq.banks[b].state = .opened then t.addDue b .closeRow else t

/-- The row age timer of an owned bank expires: close due becomes yes (R117). -/
def State.ageOwned (s : State) (b : BankId) : State :=
  s.setBank b { s.seq.banks[b] with rowAge := none, closeDue := true }

def rowAgeExpiry (b : BankId) (s : State) : State :=
  if s.seq.banks[b].rowAge = some 0 then
    (if s.seq.banks[b].owned then s.ageOwned b else State.finish s (s.ageClose b))
  else s

/-- The interval timer expires: it starts again, and a renewal is owed (R133, R136, R137). -/
def renewalIntervalExpiry (s : State) : State :=
  if s.renewal.interval = some 0 then State.finish s s.restartInterval.oweRenewal else s

/-- SETTLE ends (R128). -/
def settleEnd (s : State) : State := if s.startUp = .settle 0 then s.withStartUp .closeCalled else s

end Sys2Proof.Machine
end

