-- ==== Sys2Proof/Machine/EventRows.lean ====
section
/-! DEFINITION. The rows that are events inside the part or on its pins: timers, /RESET, the steps on the
memory pins, the ends of their intervals, and the consequences as events of their own. While /RESET
is low only its rise happens (R121, R187). -/

namespace Sys2Proof.Machine

/-- LINGER_EXPIRY (R63). -/
def execLingerExpiry (n : StreamId) (s : State) : Host.Outcome State Fault Refusal := .next (whileRunning (lingerExpiry n) s)

/-- ROW_AGE_EXPIRY (R117). -/
def execRowAgeExpiry (b : BankId) (s : State) : Host.Outcome State Fault Refusal := .next (whileRunning (rowAgeExpiry b) s)

/-- RENEWAL_INTERVAL_EXPIRY (R133). -/
def execRenewalIntervalExpiry (s : State) : Host.Outcome State Fault Refusal := .next (whileRunning renewalIntervalExpiry s)

/-- SETTLE_END (R128). -/
def execSettleEnd (s : State) : Host.Outcome State Fault Refusal := .next (whileRunning settleEnd s)

/-- MICROSECOND_BOUNDARY (R184). -/
def execMicrosecondBoundary (s : State) : Host.Outcome State Fault Refusal := .next (whileRunning microsecondBoundary s)

/-- PIN_RESET (R187, R121). -/
def execPinReset (s : State) : Host.Outcome State Fault Refusal := .next (pinReset s)

/-- PIN_RESET_RELEASE (R187). -/
def execPinResetRelease (s : State) : Host.Outcome State Fault Refusal := .next (pinResetRelease s)

/-- OPEN_ROW (R104). -/
def execOpenRow (b : BankId) (s : State) : Host.Outcome State Fault Refusal := .next (whileRunning (stepOpenRow b) s)

/-- CLOSE_ROW (R104). -/
def execCloseRow (b : BankId) (s : State) : Host.Outcome State Fault Refusal := .next (whileRunning (stepCloseRow b) s)

/-- CLOSE_ALL (R119, R129). -/
def execCloseAll (s : State) : Host.Outcome State Fault Refusal := .next (whileRunning stepCloseAll s)

/-- READ_BURST (R112). -/
def execReadBurst (b : BankId) (s : State) : Host.Outcome State Fault Refusal := .next (whileRunning (stepReadBurst b) s)

/-- WRITE_BURST (R114). -/
def execWriteBurst (b : BankId) (s : State) : Host.Outcome State Fault Refusal := .next (whileRunning (stepWriteBurst b) s)

/-- RENEW_ALL (R120). -/
def execRenewAll (s : State) : Host.Outcome State Fault Refusal := .next (whileRunning stepRenewAll s)

/-- LOAD_OPTIONS (R130). -/
def execLoadOptions (s : State) : Host.Outcome State Fault Refusal := .next (whileRunning stepLoadOptions s)

/-- OPEN_SETTLE_END (R107). -/
def execOpenSettleEnd (b : BankId) (s : State) : Host.Outcome State Fault Refusal := .next (whileRunning (openSettleEnd b) s)

/-- CLOSE_SETTLE_END (R107, R128). -/
def execCloseSettleEnd (which : SettleOf) (s : State) : Host.Outcome State Fault Refusal := .next (whileRunning (closeSettleEnd which) s)

/-- WRITE_DATA_END (R114). -/
def execWriteDataEnd (b : BankId) (s : State) : Host.Outcome State Fault Refusal := .next (whileRunning (writeDataEnd b) s)

/-- RENEWAL_COMPLETE (R135). -/
def execRenewalComplete (s : State) : Host.Outcome State Fault Refusal := .next (whileRunning renewalComplete s)

/-- OPTION_LOAD_END (R128). -/
def execOptionLoadEnd (s : State) : Host.Outcome State Fault Refusal := .next (whileRunning optionLoadEnd s)

/-- SLOT_GRANT (R25, R27). -/
def execSlotGrant (s : State) : Host.Outcome State Fault Refusal := .next (whileRunning (consequence slotGrant) s)

/-- REQUEST_GRANT (R110, R111). -/
def execRequestGrant (s : State) : Host.Outcome State Fault Refusal := .next (whileRunning (consequence requestGrant) s)

/-- HELD_POST_ACCEPTANCE (R77). -/
def execHeldPostAcceptance (s : State) : Host.Outcome State Fault Refusal := .next (whileRunning (consequence heldPostAcceptance) s)

/-- DRAIN_COMPLETE (R74). -/
def execDrainComplete (s : State) : Host.Outcome State Fault Refusal := .next (whileRunning (consequence drainComplete) s)

/-- OPPORTUNISTIC_RENEWAL (R137). -/
def execOpportunisticRenewal (s : State) : Host.Outcome State Fault Refusal := .next (whileRunning (consequence opportunisticRenewal) s)

/-- RESETTING_END (R171). -/
def execResettingEnd (s : State) : Host.Outcome State Fault Refusal := .next (whileRunning (consequence resettingEnd) s)

/-- JOB_START (R143). -/
def execJobStart (s : State) : Host.Outcome State Fault Refusal := .next (whileRunning (consequence jobStart) s)

/-- DESTINATION_LINE_BUILD (R147). -/
def execDestinationLineBuild (s : State) : Host.Outcome State Fault Refusal := .next (whileRunning (consequence destinationLineBuild) s)

/-- SCAN_EXAMINATION (R151). -/
def execScanExamination (s : State) : Host.Outcome State Fault Refusal := .next (whileRunning (consequence scanExamination) s)

/-- COMPARE_CHUNK (R152). -/
def execCompareChunk (s : State) : Host.Outcome State Fault Refusal := .next (whileRunning (consequence compareChunk) s)

/-- JOB_END (R153). -/
def execJobEnd (s : State) : Host.Outcome State Fault Refusal := .next (whileRunning (consequence jobEnd) s)

/-- A fetch return or store completion of an owner of one operation: it happens below the fitted size,
and faults for a line that does not exist (R1, R99). -/
def ownerEnds (op : MemOp) (o : Option OwnerRecord) (effect : OwnerRecord → State) (s : State) :
    Host.Outcome State Fault Refusal :=
  match o with
  | none => .next s
  | some r =>
    if r.op ≠ op then .next s
    else if r.line < s.timing.fittedSize then .next (effect r)
    else .fault (.beyondFittedSize r.line)

/-- FETCH_RETURN (R113). -/
def execFetchReturn (b : BankId) (s : State) : Host.Outcome State Fault Refusal :=
  if s.resetLow then .next s else ownerEnds .fetch (s.readingOwner b) (s.endFetch b) s

/-- STORE_COMPLETE (R79, R114). -/
def execStoreComplete (b : BankId) (s : State) : Host.Outcome State Fault Refusal :=
  if s.resetLow then .next s else ownerEnds .store (s.recoveringOwner b) (s.endStore b) s

end Sys2Proof.Machine
end

