-- ==== Sys2Proof/Machine/Dispatch.lean ====
section
/-! DEFINITION. The meaning of each command of the block, one arm per row of the table. -/

namespace Sys2Proof.Machine

def exec (i : Instr) (s : State) : Host.Outcome State Fault Refusal :=
  match i with
  | .openRead => Sys2Proof.Machine.execOpenRead s
  | .openWrite => Sys2Proof.Machine.execOpenWrite s
  | .seek => Sys2Proof.Machine.execSeek s
  | .flush => Sys2Proof.Machine.execFlush s
  | .close => Sys2Proof.Machine.execClose s
  | .queryStream => Sys2Proof.Machine.execQueryStream s
  | .sync => Sys2Proof.Machine.execSync s
  | .submitJob => Sys2Proof.Machine.execSubmitJob s
  | .cancelJob => Sys2Proof.Machine.execCancelJob s
  | .takeCompletion => Sys2Proof.Machine.execTakeCompletion s
  | .setTiming => Sys2Proof.Machine.execSetTiming s
  | .memStart => Sys2Proof.Machine.execMemStart s
  | .setClock => Sys2Proof.Machine.execSetClock s
  | .badCommand code => Sys2Proof.Machine.execBadCommand code s
  | .softReset value => Sys2Proof.Machine.execSoftReset value s
  | .dataPortRead n => Sys2Proof.Machine.execDataPortRead n s
  | .dataPortWrite n value => Sys2Proof.Machine.execDataPortWrite n value s
  | .eventPendingWrite value => Sys2Proof.Machine.execEventPendingWrite value s
  | .streamEventWrite n value => Sys2Proof.Machine.execStreamEventWrite n value s
  | .eventEnableWrite value => Sys2Proof.Machine.execEventEnableWrite value s
  | .streamEventEnableWrite value => Sys2Proof.Machine.execStreamEventEnableWrite value s
  | .unmappedAccess k access => Sys2Proof.Machine.execUnmappedAccess k access s
  | .registerWrite position access => Sys2Proof.Machine.execRegisterWrite position access s
  | .strobeRemovedEarly => Sys2Proof.Machine.execStrobeRemovedEarly s
  | .stretchTimerExpiry => Sys2Proof.Machine.execStretchTimerExpiry s
  | .lingerExpiry n => Sys2Proof.Machine.execLingerExpiry n s
  | .rowAgeExpiry b => Sys2Proof.Machine.execRowAgeExpiry b s
  | .renewalIntervalExpiry => Sys2Proof.Machine.execRenewalIntervalExpiry s
  | .settleEnd => Sys2Proof.Machine.execSettleEnd s
  | .pinReset => Sys2Proof.Machine.execPinReset s
  | .pinResetRelease => Sys2Proof.Machine.execPinResetRelease s
  | .openRow b => Sys2Proof.Machine.execOpenRow b s
  | .closeRow b => Sys2Proof.Machine.execCloseRow b s
  | .closeAll => Sys2Proof.Machine.execCloseAll s
  | .readBurst b => Sys2Proof.Machine.execReadBurst b s
  | .writeBurst b => Sys2Proof.Machine.execWriteBurst b s
  | .renewAll => Sys2Proof.Machine.execRenewAll s
  | .loadOptions => Sys2Proof.Machine.execLoadOptions s
  | .openSettleEnd b => Sys2Proof.Machine.execOpenSettleEnd b s
  | .closeSettleEnd which => Sys2Proof.Machine.execCloseSettleEnd which s
  | .fetchReturn b => Sys2Proof.Machine.execFetchReturn b s
  | .writeDataEnd b => Sys2Proof.Machine.execWriteDataEnd b s
  | .storeComplete b => Sys2Proof.Machine.execStoreComplete b s
  | .renewalComplete => Sys2Proof.Machine.execRenewalComplete s
  | .optionLoadEnd => Sys2Proof.Machine.execOptionLoadEnd s
  | .slotGrant => Sys2Proof.Machine.execSlotGrant s
  | .requestGrant => Sys2Proof.Machine.execRequestGrant s
  | .heldPostAcceptance => Sys2Proof.Machine.execHeldPostAcceptance s
  | .drainComplete => Sys2Proof.Machine.execDrainComplete s
  | .opportunisticRenewal => Sys2Proof.Machine.execOpportunisticRenewal s
  | .resettingEnd => Sys2Proof.Machine.execResettingEnd s
  | .jobStart => Sys2Proof.Machine.execJobStart s
  | .destinationLineBuild => Sys2Proof.Machine.execDestinationLineBuild s
  | .scanExamination => Sys2Proof.Machine.execScanExamination s
  | .compareChunk => Sys2Proof.Machine.execCompareChunk s
  | .jobEnd => Sys2Proof.Machine.execJobEnd s
  | .busCycleEnd => Sys2Proof.Machine.execBusCycleEnd s
  | .microsecondBoundary => Sys2Proof.Machine.execMicrosecondBoundary s

end Sys2Proof.Machine
end

