-- ==== Sys2Proof/Machine/Tick.lean ====
section
/-! DEFINITION. One CLK period, which is one MCLK (R107, R184): what the step does on an empty queue in
place of idling (DESIGN CHOICE, log entry 1). The intervals and the timebase count it, the events that
fall in it happen, and at most one memory step is issued (R106). -/

namespace Sys2Proof.Machine

/-! ### Counting -/

/-- The interval running on a bank has one MCLK less to go. -/
def Bank.countClk (b : Bank) : Bank := { b with left := b.left - 1 }

/-- The Sequencer's intervals count one MCLK (R107). -/
def Sequencer.countClk (q : Sequencer) : Sequencer :=
  { q with banks := q.banks.map Bank.countClk, wideLeft := q.wideLeft - 1 }

/-- The next MCLK: the command pins carry IDLE, a write burst drives its next word, and every interval
and the timebase count it (R104, R107, R184). -/
def State.countClk (s : State) : State :=
  { s with
    clock := { s.clock with clkCount := s.clock.clkCount + 1 }
    seq := s.seq.countClk
    startClose := countDown s.startClose
    pins := { command := CommandPins.idle, words := s.pins.words.tail } }

/-- The count of CLK periods has reached the divisor: a microsecond boundary (R184). -/
def State.countMicrosecond (s : State) : State :=
  if s.clock.divisor ≤ s.clock.clkCount then microsecondBoundary s else s

/-! ### The events of this MCLK -/

/-- The event that ends the interval running on a bank (R107). -/
def Bank.intervalEnd (r : Bank) (b : BankId) : List Instr :=
  if r.left = 0 then
    match r.state with
    | .opening => [.openSettleEnd b]
    | .reading => [.fetchReturn b]
    | .writing => [.writeDataEnd b]
    | .recovering => [.storeComplete b]
    | .closing => [.closeSettleEnd (.bank b)]
    | .closed | .opened => []
  else []

/-- The event that ends the memory-wide step (R120). -/
def Sequencer.wideEnd (q : Sequencer) : List Instr :=
  if q.wideLeft = 0 then
    match q.wide with
    | .renewing => [.renewalComplete]
    | .loading => [.optionLoadEnd]
    | .none => []
  else []

/-- The expiry of a bank's row age timer (R117). -/
def Bank.expiry (r : Bank) (b : BankId) : List Instr := if r.rowAge = some 0 then [.rowAgeExpiry b] else []

/-- The expiry of a stream's linger timer (R63). -/
def Stream.expiry (c : Stream) (n : StreamId) : List Instr :=
  match c with
  | .write w => if w.lingerTimer = some 0 then [.lingerExpiry n] else []
  | .read _ => []
  | .closed => []

/-- The expiry of the stretch timer (R182). -/
def Bus.expiry : Bus → List Instr
  | .stretched _ _ 0 => [.stretchTimerExpiry]
  | .stretched _ _ (_ + 1) => []
  | .answered _ => []
  | .idle => []

/-- Every event that falls in this MCLK: ended intervals and expired timers (R107, R185). -/
def State.dueEvents (s : State) : List Instr :=
  ((List.finRange 4).flatMap fun b => s.seq.banks[b].intervalEnd b) ++
  (if s.startClose = some 0 then [.closeSettleEnd .startUp] else []) ++
  s.seq.wideEnd ++
  s.bus.expiry ++
  ((List.finRange 8).flatMap fun n => s.streams[n].expiry n) ++
  ((List.finRange 4).flatMap fun b => s.seq.banks[b].expiry b) ++
  (if s.renewal.interval = some 0 then [.renewalIntervalExpiry] else []) ++
  (if s.startUp = .settle 0 then [.settleEnd] else [])

/-- The events with their places in the list. -/
def numbered : Nat → List Instr → List (Nat × Instr)
  | _, [] => []
  | k, i :: is => (k, i) :: numbered (k + 1) is

/-- The events in the order that the free keys give them (log entry 7): the manual lets events that
fall in one MCLK come in either order. -/
def orderEvents (draw : Nat) (es : List Instr) : List Instr :=
  (sortByKey (fun x => Config.eventKey draw x.1) (numbered 0 es)).map Prod.snd

/-- The events, one after the other; a fault stops the machine. -/
def runEvents : List Instr → State → Host.Outcome State Fault Refusal
  | [], s => .next s
  | i :: is, s =>
    match exec i s with
    | .next t => runEvents is t
    | .fault r => .fault r
    | .refused r => .refused r

/-- A draw is used up when two events or more fall in the MCLK. -/
def State.drawOrder (s : State) : State :=
  if s.dueEvents.length < 2 then s else s.withDraws (s.draws + 1)

/-! ### The step of this MCLK (R106) -/

/-- The step that goes out in this MCLK: a CLOSE ALL whose turn has come, else the first bank step that is due,
else the memory-wide step that can be issued. -/
def State.nextStep (s : State) : List Instr :=
  if s.closeAllReady then [.closeAll]
  else match s.seq.due with
  | (b, .openRow) :: _ => [.openRow b]
  | (b, .closeRow) :: _ => [.closeRow b]
  | (b, .burst) :: _ =>
    (match s.seq.banks[b].owner with
    | some o => if o.op = .fetch then [.readBurst b] else [.writeBurst b]
    | none => [])
  | [] =>
    if s.startCloseReady then [.closeAll]
    else if s.renewAllReady then [.renewAll]
    else if s.loadOptionsReady then [.loadOptions]
    else []

/-- The steps that became due in this MCLK stand in ascending bank number, a CLOSE ALL called for in it behind
them (R106), and the next step is issued. The manual does not place a bus access among the MCLK: the steps that an
access or another command makes due stand in the state `before`, and go out before those that become due in
this CLK period, whatever the bank numbers (DESIGN CHOICE, log entry 28). -/
def issueNext (before s : State) : Host.Outcome State Fault Refusal :=
  let t := State.placeCloseAll before (State.orderDue before s)
  runEvents t.nextStep t

/-- One CLK period. While /RESET is low nothing is counted: the timebase counts from its release
(R184, R187). -/
def tick (s : State) : Host.Outcome State Fault Refusal :=
  if s.resetLow then .next s
  else
    let counted := s.countClk.countMicrosecond
    match runEvents (orderEvents s.draws counted.dueEvents) counted.drawOrder with
    | .next t => issueNext s t
    | .fault r => .fault r
    | .refused r => .refused r

end Sys2Proof.Machine
end

