-- ==== Sys2Proof/Machine/Step.lean ====
section
/-! DEFINITION. One step: the command at the front of the queue, or, on an empty queue, one CLK period
(log entry 1). -/

namespace Sys2Proof.Machine

/-- One step. -/
def step (s : State) : Host.Outcome State Fault Refusal :=
  match s.pending with
  | [] => tick s
  | c :: rest => exec c (s.withPending rest)

/-- The state with the command that a word spells at the front of its queue; the table gives no row
bits, so no word spells one. -/
def State.withFetchWord (s : State) (nbits w : Nat) : State :=
  match decodeTableWord nbits w with
  | some c => s.withPending (c :: s.pending)
  | none => s

end Sys2Proof.Machine
end

