-- ==== Sys2Proof/Safety.lean ====
section
/-! DEFINITION. What counts as a lawful state, in the terms the claims use: the laws of the device that the
manual names, each as a property of one state. -/

namespace Sys2Proof.Safety

open Sys2Proof.Machine

/-- The laws of the Post Queue and of the two Move Engine queues: at most 16 entries, 4 jobs and 4
records (R75, R154). -/
abbrev QueuesWithinCapacity (s : State) : Prop :=
  s.post.entries.length ≤ 16 ∧ s.engine.jobs.length ≤ 4 ∧ s.engine.completions.length ≤ 4

/-- The law of R75 on WAITING entries: at most one for any line. -/
def OneWaitingPerLine (s : State) : Prop :=
  ∀ line, (s.post.entries.filter fun e => e.waitsFor line).length ≤ 1

/-- The law of R35 for one stream: no more entries than the depth, and at most one REQUESTED. -/
def StreamLawful : Stream → Prop
  | .read r => r.queue.length ≤ r.depth ∧ (r.queue.filter fun e => e.state = .requested).length ≤ 1
  | .write _ => True
  | .closed => True

/-- The law of R35. -/
def ReadAheadLawful (s : State) : Prop := ∀ n : StreamId, StreamLawful s.streams[n]

/-- A bank is in a state in which it always has an owner (R102). -/
abbrev busyBank (b : Bank) : Prop :=
  b.state = .opening ∨ b.state = .reading ∨ b.state = .writing ∨ b.state = .recovering

/-- A burst of the bank is on the data bus (R112). -/
abbrev bursting (b : Bank) : Prop := b.state = .reading ∨ b.state = .writing

/-- The laws of the bank table: a busy bank has an owner (R102), a bursting bank holds the data bus, so at
most one burst uses it (R105), every bank is CLOSED without an owner while a memory-wide step runs
(R105, R120) and while the memory is not STARTED (R109). -/
structure BanksLawful (s : State) : Prop where
  busyOwned : ∀ b : BankId, busyBank s.seq.banks[b] → s.seq.banks[b].owned = true
  burstHoldsBus : ∀ b : BankId, bursting s.seq.banks[b] → s.seq.dataBus = some b
  wideAlone : s.seq.wide ≠ .none → ∀ b : BankId, s.seq.banks[b].state = .closed ∧ s.seq.banks[b].owned = false
  notStarted : s.seq.memory ≠ .started → ∀ b : BankId, s.seq.banks[b].state = .closed ∧ s.seq.banks[b].owned = false

/-- Every slot that something holds has that holder as its owner, and no two hold one slot (R21): the entries
of the read-ahead queues, the assemblies, the posts, the source buffers, the destination line, and the
discarded fetches. -/
structure SlotsLawful (s : State) : Prop where
  readOwned : ∀ (n : StreamId) (r : ReadStream) (e : ReadEntry), s.streams[n] = .read r → e ∈ r.queue →
    s.pool.slots[e.slot].owner = .read n
  readApart : ∀ (n : StreamId) (r : ReadStream), s.streams[n] = .read r → (r.queue.map ReadEntry.slot).Nodup
  assemblyOwned : ∀ (n : StreamId) (w : WriteStream) (a : Assembly), s.streams[n] = .write w →
    w.assembly = some a → s.pool.slots[a.slot].owner = .assembly n
  postOwned : ∀ e ∈ s.post.entries, s.pool.slots[e.slot].owner = .post
  postApart : (s.post.entries.map PostEntry.slot).Nodup
  sourceOwned : ∀ (k : Fin 2) (x : SourceBuffer), s.engine.buffers[k] = some x →
    s.pool.slots[x.slot].owner = .jobSource k
  destOwned : ∀ d : DestLine, s.engine.dest = some d → s.pool.slots[d.slot].owner = .jobDest
  discardOwned : ∀ (b : BankId) (o : OwnerRecord), s.seq.banks[b].owner = some o → o.op = .fetch →
    o.discard = true → s.pool.slots[o.slot].owner = .discard
  discardApart : ∀ (b c : BankId) (o p : OwnerRecord), s.seq.banks[b].owner = some o →
    s.seq.banks[c].owner = some p → o.op = .fetch → p.op = .fetch → o.discard = true → p.discard = true →
    o.slot = p.slot → b = c

/-- The converse of the law above: every owned slot has its holder, so none leaks (R21, R22). The last two say
which claims wait for a slot: a stream BLOCKED with reason NO_SLOT holds no assembly (R60), and a claim for the
destination line is the Move Engine's, which then holds none (R147). -/
structure SlotsHeld (s : State) : Prop where
  readHeld : ∀ (k : SlotId) (n : StreamId), s.pool.slots[k].owner = .read n →
    ∃ (r : ReadStream) (e : ReadEntry), s.streams[n] = .read r ∧ e ∈ r.queue ∧ e.slot = k
  assemblyHeld : ∀ (k : SlotId) (n : StreamId), s.pool.slots[k].owner = .assembly n →
    ∃ (w : WriteStream) (a : Assembly), s.streams[n] = .write w ∧ w.assembly = some a ∧ a.slot = k
  postHeld : ∀ k : SlotId, s.pool.slots[k].owner = .post → ∃ e ∈ s.post.entries, e.slot = k
  sourceHeld : ∀ (k : SlotId) (i : Fin 2), s.pool.slots[k].owner = .jobSource i →
    ∃ x : SourceBuffer, s.engine.buffers[i] = some x ∧ x.slot = k
  destHeld : ∀ k : SlotId, s.pool.slots[k].owner = .jobDest → ∃ d : DestLine, s.engine.dest = some d ∧ d.slot = k
  discardHeld : ∀ k : SlotId, s.pool.slots[k].owner = .discard →
    ∃ (b : BankId) (o : OwnerRecord), s.seq.banks[b].owner = some o ∧ o.op = .fetch ∧ o.discard = true ∧ o.slot = k
  waitsEmpty : ∀ (n : StreamId) (w : WriteStream), s.streams[n] = .write w → w.state = .blocked .noSlot →
    w.assembly = none
  destClaimed : ∀ (c : Fin 9) (x : Claim), s.pool.claims[c] = some x → x.purpose = .jobDest →
    c = 8 ∧ s.engine.dest = none

/-- What RESETTING leaves of the requesters: streams CLOSED, the Move Engine empty, no claim, and no post but the
RETIRING ones (R32, R57, R82, R83, R159). -/
def ResettingQuiet (s : State) : Prop :=
  s.port.state = .resetting → (∀ n : StreamId, s.streams[n] = .closed) ∧ s.engine = Engine.reset ∧
    (∀ c : Fin 9, s.pool.claims[c] = none) ∧ ∀ e ∈ s.post.entries, e.state = .retiring

/-- The fetch of an owner record serves an entry of a read stream that is IN_FLIGHT (R41), or a source buffer
that is (R145). -/
def FetchServes (s : State) (o : OwnerRecord) : Prop :=
  (∃ (n : StreamId) (r : ReadStream), o.position.val = n.val ∧ s.streams[n] = .read r ∧
    ∃ e ∈ r.queue, e.slot = o.slot ∧ e.line = o.line ∧ e.state = .inFlight) ∨
  (o.position.val = 9 ∧ ∃ (k : Fin 2) (x : SourceBuffer), s.engine.buffers[k] = some x ∧ x.slot = o.slot ∧
    x.line = some o.line ∧ x.state = .inFlight)

/-- The bank of a line has a fetch of that line into a slot as its owner, for a request position and without
the discard mark (R101). -/
def FetchUnderWay (s : State) (position line : Nat) (slot : SlotId) : Prop :=
  ∃ o : OwnerRecord, s.seq.banks[bankOf line].owner = some o ∧ o.op = .fetch ∧ o.discard = false ∧
    o.position.val = position ∧ o.line = line ∧ o.slot = slot

/-- The bank of a line has the store of an entry as its owner (R79, R101). -/
def StoreUnderWay (s : State) (e : PostEntry) : Prop :=
  ∃ o : OwnerRecord, s.seq.banks[bankOf e.line].owner = some o ∧ o.op = .store ∧ o.line = e.line ∧
    o.slot = e.slot ∧ o.mask = e.mask

/-- The bank table and the requesters agree on what is under way: each owner record is for a line of its bank
(R99, R101) and serves a requester that knows of it, and whatever is IN_FLIGHT or RETIRING has its bank
(R41, R79, R92, R145); a bank that writes or recovers does so for a store (R102); a claim for a source
buffer is the Move Engine's, for a buffer it does not hold (R144). -/
structure OperationsLawful (s : State) : Prop where
  ownBank : ∀ (b : BankId) (o : OwnerRecord), s.seq.banks[b].owner = some o → bankOf o.line = b
  fetchServed : ∀ (b : BankId) (o : OwnerRecord), s.seq.banks[b].owner = some o → o.op = .fetch →
    o.discard = false → FetchServes s o
  storeServed : ∀ (b : BankId) (o : OwnerRecord), s.seq.banks[b].owner = some o → o.op = .store →
    ∃ e ∈ s.post.entries, e.state = .retiring ∧ e.line = o.line ∧ e.slot = o.slot ∧ e.mask = o.mask
  entryUnderWay : ∀ (n : StreamId) (r : ReadStream) (e : ReadEntry), s.streams[n] = .read r → e ∈ r.queue →
    e.state = .inFlight → FetchUnderWay s n.val e.line e.slot
  bufferUnderWay : ∀ (k : Fin 2) (x : SourceBuffer), s.engine.buffers[k] = some x → x.state = .inFlight →
    ∃ line, x.line = some line ∧ FetchUnderWay s 9 line x.slot
  retiringUnderWay : ∀ e ∈ s.post.entries, e.state = .retiring → StoreUnderWay s e
  writingStores : ∀ b : BankId, s.seq.banks[b].state = .writing ∨ s.seq.banks[b].state = .recovering →
    ∃ o : OwnerRecord, s.seq.banks[b].owner = some o ∧ o.op = .store
  sourceClaimed : ∀ (c : Fin 9) (x : Claim) (k : Fin 2), s.pool.claims[c] = some x → x.purpose = .jobSource k →
    c = 8 ∧ s.engine.buffers[k] = none

/-- The law of R75 on RETIRING entries: at most one for any line. -/
def OneRetiringPerLine (s : State) : Prop :=
  ∀ line, (s.post.entries.filter fun e => e.line = line ∧ e.state = .retiring).length ≤ 1

/-- Every line address that a read stream, a write stream, a post or the destination line holds is a line
address (R2). -/
structure LinesAligned (s : State) : Prop where
  reads : ∀ (n : StreamId) (r : ReadStream), s.streams[n] = .read r →
    r.fetchCursor % 16 = 0 ∧ ∀ e ∈ r.queue, e.line % 16 = 0
  assemblies : ∀ (n : StreamId) (w : WriteStream) (a : Assembly), s.streams[n] = .write w →
    w.assembly = some a → a.line % 16 = 0
  posts : ∀ e ∈ s.post.entries, e.line % 16 = 0
  destination : ∀ d : DestLine, s.engine.dest = some d → d.line % 16 = 0

/-- The law of R87: every byte of every FILLED read-ahead entry equals the current value of its address. -/
def FilledIsCurrent (s : State) : Prop :=
  ∀ (n : StreamId) (r : ReadStream) (e : ReadEntry), s.streams[n] = .read r → e ∈ r.queue → e.state = .filled →
    ∀ i : Fin 16, (s.bytesOf e.slot)[i] = s.currentValue (e.line + i.val)

/-- The debt is within its cap (R133). -/
abbrev DebtCapped (s : State) : Prop := s.renewal.debt ≤ 8

/-- The memory keeps its canonical form. -/
abbrev MemoryCanonical (s : State) : Prop := Memory.wf s.memory = true

/-- The law of R87 with the laws that keep it: slots and operations as R21 and R92 have them, one WAITING entry
for a line, line addresses, and the memory's canonical form. -/
structure Coherent (s : State) : Prop where
  slots : SlotsLawful s
  operations : OperationsLawful s
  waiting : OneWaitingPerLine s
  lines : LinesAligned s
  memory : MemoryCanonical s
  filled : FilledIsCurrent s

/-- The state in which the effect of a write access runs: the cycle is answered with nothing driven
(R181). -/
def answeredWrite (s : State) : State := { s with bus := .answered none }

/-- What R164 says of a command's completion with a result code, RESULT bytes apart. -/
def completedWith (s : State) (r : ResultCode) : State :=
  { s with
    port := { s.port with lastResult := r, state := .idle }
    events := { s.events with cmdDone := true } }

/-- A bus access can begin and the Command Port is IDLE: a command is taken (R163, R181). -/
abbrev TakesCommand (s : State) : Prop := s.accessCanBegin = true ∧ s.port.state = .idle

/-- A bus access can begin and no soft reset is under way (R170, R181). -/
abbrev TakesAccess (s : State) : Prop := s.accessCanBegin = true ∧ s.port.state ≠ .resetting

/-- The stream as it stands DRAINING with its post held (R74). -/
def drainingStream (w : WriteStream) : WriteStream := { w with lingerTimer := none, state := .draining }

/-- The state in which a command stays EXECUTING with its copy of the parameter block (R162, R164). -/
def executingWith (s : State) (c : LongCommand) : State :=
  { s with port := { s.port with state := .executing { command := c, params := s.port.param } } }

/-- The table of R70 with the rows that R71, R72 and R73 share: what a command row of an open write stream
does in OPEN and in BLOCKED, given its effect on a stream left without assembly and its effect on a
stream that waits for a slot. -/
structure WriteCommandTable (i : Instr) (c : LongCommand) (effect waiting : WriteStream → Stream)
    (n : StreamId) (w : WriteStream) (s : State) : Prop where
  noAssembly : w.state = .opened → w.assembly = none →
    exec i s = .next (State.finish (answeredWrite s)
      (completedWith ((answeredWrite s).setStream n (effect w)) .ok))
  noByteSet : ∀ a, w.state = .opened → w.assembly = some a → a.mask = 0#16 →
    exec i s = .next (State.finish (answeredWrite s)
      (completedWith (((answeredWrite s).release a.slot).setStream n (effect w)) .ok))
  accepted : ∀ a t, w.state = .opened → w.assembly = some a → a.mask ≠ 0#16 →
    (answeredWrite s).acceptPost a.line a.mask a.slot = some t →
    exec i s = .next (State.finish (answeredWrite s) (completedWith (t.setStream n (effect w)) .ok))
  notAccepted : ∀ a, w.state = .opened → w.assembly = some a → a.mask ≠ 0#16 →
    (answeredWrite s).acceptPost a.line a.mask a.slot = none →
    exec i s = .next (State.finish (answeredWrite s)
      (executingWith ((answeredWrite s).setStream n
        (.write (drainingStream { w with assembly := some { a with frozen := true } }))) c))
  postFull : w.state = .blocked .postFull →
    exec i s = .next (State.finish (answeredWrite s)
      (executingWith ((answeredWrite s).setStream n (.write (drainingStream w))) c))
  noSlot : w.state = .blocked .noSlot →
    exec i s = .next (State.finish (answeredWrite s)
      (completedWith ((answeredWrite s).setStream n (waiting w)) .ok))

/-- A write stream that is OPEN with no assembly (R71, R72). -/
def emptiedStream (w : WriteStream) : WriteStream := { w with lingerTimer := none, assembly := none, state := .opened }

/-- A policy parameter of OPEN_READ or OPEN_WRITE out of its range (R11, check 3; R167). -/
abbrev BadPolicies (p : Params) : Prop :=
  1 < p.byteAt 7 ∨ 1 < p.byteAt 8 ∨ (p.byteAt 8 = 1 ∧ p.byteAt 9 = 0)

/-- The window parameters of OPEN_READ and OPEN_WRITE lie within the fitted size (R11, check 5). -/
abbrev WindowFits (p : Params) (s : State) : Prop :=
  p.addressAt 1 ≤ p.addressAt 4 ∧ p.addressAt 4 < s.timing.rowsFitted * 4096

/-! ### What a grant of the Sequencer leaves (R110, R111) -/

/-- The state right after the grant of a request at a position: the bank has its owner record and sets out
for the line (R101, R111), a bank with a step already due goes on with that one (R115, step 3), the
grant position is the position granted (R110), a CLOSE ALL called for by soft reset lapses (R122), the
requester knows of the grant (R41, R79, R145), and nothing else has changed. -/
structure RequestGranted (s : State) (p : Fin 10) (q : Request) (u : State) : Prop where
  rest : u = { s with
    streams := u.streams
    post := { s.post with entries := u.post.entries }
    engine := { s.engine with buffers := u.engine.buffers }
    seq := { s.seq with
      banks := s.seq.banks.set (bankOf q.line).val { s.seq.banks[bankOf q.line] with
        owner := some { position := p, op := q.op, line := q.line, slot := q.slot, mask := q.mask, discard := false } }
      grantPos := p, resetCloseAll := none, burstOrder := u.seq.burstOrder, due := u.seq.due } }
  closed : s.seq.banks[bankOf q.line].state = .closed → s.seq.hasDue (bankOf q.line) = false →
    u.seq.due = s.seq.due ++ [(bankOf q.line, .openRow)] ∧ u.seq.burstOrder = s.seq.burstOrder
  sameRow : s.seq.banks[bankOf q.line].state = .opened → s.seq.hasDue (bankOf q.line) = false →
    s.seq.banks[bankOf q.line].openRow = some (rowOf q.line) → bankOf q.line ∉ s.seq.burstOrder →
    u.seq.burstOrder = s.seq.burstOrder ++ [bankOf q.line] ∧ u.seq.due = s.seq.due
  otherRow : s.seq.banks[bankOf q.line].state = .opened → s.seq.hasDue (bankOf q.line) = false →
    s.seq.banks[bankOf q.line].openRow ≠ some (rowOf q.line) →
    u.seq.due = s.seq.due ++ [(bankOf q.line, .closeRow)] ∧ u.seq.burstOrder = s.seq.burstOrder
  closing : s.seq.banks[bankOf q.line].state = .closing →
    u.seq.due = s.seq.due ∧ u.seq.burstOrder = s.seq.burstOrder
  stepDue : s.seq.hasDue (bankOf q.line) = true →
    u.seq.due = s.seq.due ∧ u.seq.burstOrder = s.seq.burstOrder
  readEntry : ∀ (n : StreamId) (r : ReadStream), p.val = n.val → s.streams[n] = .read r →
    u.streams[n] = .read { r with queue := r.queue.map fun e =>
      if e.slot = q.slot ∧ e.state = .requested then { e with state := .inFlight } else e }
  otherStreams : ∀ n : StreamId, p.val ≠ n.val → u.streams[n] = s.streams[n]
  retiring : p.val = 8 → ∀ (older newer : List PostEntry) (e : PostEntry),
    s.post.entries = older ++ e :: newer → (∀ x ∈ older, x.state ≠ .waiting) → e.state = .waiting →
    u.post.entries = older ++ { e with state := .retiring } :: newer
  otherPosts : p.val ≠ 8 → u.post.entries = s.post.entries
  buffer : p.val = 9 → ∀ k : Fin 2, u.engine.buffers[k] = (s.engine.buffers[k]).map fun x =>
    if x.slot = q.slot ∧ x.state = .requested then { x with state := .inFlight } else x
  otherBuffers : p.val ≠ 9 → u.engine.buffers = s.engine.buffers

/-! ### What is left when an event has ended -/

/-- Nothing that an event brings about in the other blocks is left to do: the claim list shows the claimants
(R24), no claim can be granted (R25), no held post can be taken (R77), no drain can complete (R74), no job
can start or end (R143, R153) nor do its next piece of work (R145, R147, R151, R152), no renewal can start
(R136, R137), no request can be granted (R110), RESETTING cannot end (R171), and no CLOSE ALL is called for
that every bank satisfies (R119). -/
structure Settled (s : State) : Prop where
  claims : ∀ c : Fin 9, s.pool.claims[c] = s.claimOf c
  essential : ∀ (c : Fin 9) (x : Claim), s.pool.claims[c] = some x → x.cls = .essential → s.pool.freeCount = 0
  readAhead : ∀ (c : Fin 9) (x : Claim), s.pool.claims[c] = some x → s.pool.freeCount ≤ 10
  posts : ∀ (o : Fin 9) (p : HeldPost), s.heldAt o = some p → s.acceptPost p.line p.mask p.slot = none
  drains : ∀ (n : StreamId) (w : WriteStream) (c : InProgress), s.port.state = .executing c →
    c.params[0].toNat = n.val → s.streams[n] = .write w → w.state = .draining → w.assembly ≠ none
  jobs : s.engine.state = .idle → s.engine.jobs = []
  endings : ∀ j : ActiveJob, s.engine.state = .acquiring j ∨ s.engine.state = .running j →
    j.cancel = true ∨ j.outcome ≠ none →
    (∃ (k : Fin 2) (x : SourceBuffer), s.engine.buffers[k] = some x ∧ x.state = .inFlight) ∨
      ∃ d : DestLine, s.engine.dest = some d ∧ d.held = true
  builds : destinationLineBuild s = none
  fetches : engineRequest s = none
  examinations : scanExamination s = none
  comparisons : compareChunk s = none
  renewals : renewalStart s = none
  requests : ∀ (p : Fin 10) (q : Request), s.requestAt p = some q → s.eligible q = false
  resetting : s.port.state = .resetting → ∃ b : BankId, s.seq.banks[b].owner ≠ none
  closeCalled : s.seq.resetCloseAll ≠ none → ∃ b : BankId, s.seq.banks[b].state ≠ .closed

/-- The members after the first n stand in ascending order of a key; no member is lost or made. -/
structure OrderedAfter {α : Type} (n : Nat) (key : α → Nat) (old new : List α) : Prop where
  before : new.take n = old.take n
  members : (new.drop n).Perm (old.drop n)
  ascending : (new.drop n).Pairwise fun x y => key x ≤ key y

/-! ### What one CLK period does (R106, R107) -/

/-- The row is the end of an interval, or the expiry of a timer, of which nothing is left (R107, R185). -/
def EventDue (s : State) (i : Instr) : Prop :=
  (∃ b : BankId, s.seq.banks[b].left = 0 ∧
    ((s.seq.banks[b].state = .opening ∧ i = .openSettleEnd b) ∨ (s.seq.banks[b].state = .reading ∧ i = .fetchReturn b) ∨
      (s.seq.banks[b].state = .writing ∧ i = .writeDataEnd b) ∨
      (s.seq.banks[b].state = .recovering ∧ i = .storeComplete b) ∨
      (s.seq.banks[b].state = .closing ∧ i = .closeSettleEnd (.bank b)))) ∨
  (s.startClose = some 0 ∧ i = .closeSettleEnd .startUp) ∨
  (s.seq.wideLeft = 0 ∧
    ((s.seq.wide = .renewing ∧ i = .renewalComplete) ∨ (s.seq.wide = .loading ∧ i = .optionLoadEnd))) ∨
  (∃ (n : StreamId) (a : Access), s.bus = .stretched n a 0 ∧ i = .stretchTimerExpiry) ∨
  (∃ (n : StreamId) (w : WriteStream), s.streams[n] = .write w ∧ w.lingerTimer = some 0 ∧ i = .lingerExpiry n) ∨
  (∃ b : BankId, s.seq.banks[b].rowAge = some 0 ∧ i = .rowAgeExpiry b) ∨
  (s.renewal.interval = some 0 ∧ i = .renewalIntervalExpiry) ∨
  (s.startUp = .settle 0 ∧ i = .settleEnd)

/-- A CLOSE ALL called for by soft reset between two states goes out after every bank step due in the second; one
called for before keeps its turn, and with none called for there is none (R106). -/
structure CloseAllPlaced (before : State) (called placed : Option Nat) (due : List (BankId × BankStep)) : Prop where
  new : before.seq.resetCloseAll = none → called ≠ none → placed = some due.length
  old : before.seq.resetCloseAll ≠ none ∨ called = none → placed = called

/-- The one step that goes out in a state: a CLOSE ALL whose turn has come; else the first bank step that is due;
with none due, the memory-wide step that can be issued; else none (R105, R106, log entry 17). -/
structure StepGoesOut (u : State) (out : Host.Outcome State Fault Refusal) : Prop where
  closeAll : u.closeAllReady = true → out = exec .closeAll u
  openRow : u.closeAllReady = false → ∀ b rest, u.seq.due = (b, .openRow) :: rest → out = exec (.openRow b) u
  closeRow : u.closeAllReady = false → ∀ b rest, u.seq.due = (b, .closeRow) :: rest → out = exec (.closeRow b) u
  readBurst : u.closeAllReady = false → ∀ b rest o, u.seq.due = (b, .burst) :: rest → u.seq.banks[b].owner = some o →
    o.op = .fetch → out = exec (.readBurst b) u
  writeBurst : u.closeAllReady = false → ∀ b rest o, u.seq.due = (b, .burst) :: rest → u.seq.banks[b].owner = some o →
    o.op = .store → out = exec (.writeBurst b) u
  unowned : u.closeAllReady = false → ∀ b rest, u.seq.due = (b, .burst) :: rest → u.seq.banks[b].owner = none → out = .next u
  startClose : u.seq.due = [] → u.startCloseReady = true → out = exec .closeAll u
  renewAll : u.seq.due = [] → u.startCloseReady = false → u.closeAllReady = false → u.renewAllReady = true →
    out = exec .renewAll u
  loadOptions : u.seq.due = [] → u.startCloseReady = false → u.closeAllReady = false → u.renewAllReady = false →
    u.loadOptionsReady = true → out = exec .loadOptions u
  noStep : u.seq.due = [] → u.startCloseReady = false → u.closeAllReady = false → u.renewAllReady = false →
    u.loadOptionsReady = false → out = .next u

/-! ### The source lines of a job (R145, R149, R151, R152) -/

/-- A buffer holds the line, or is fetching it or asking for it. -/
def LineHeld (e : Engine) (line : Nat) : Prop :=
  ∃ (m : Fin 2) (y : SourceBuffer), e.buffers[m] = some y ∧ y.line = some line ∧ y.state ≠ .empty

/-- Buffer k, EMPTY or FILLED, is the first such that a test holds of: buffer 0 when both qualify (R149, R151). -/
def FirstBuffer (e : Engine) (test : SourceBuffer → Prop) (k : Fin 2) : Prop :=
  (∃ x, e.buffers[k] = some x ∧ (x.state = .empty ∨ x.state = .filled) ∧ test x) ∧
  ∀ (m : Fin 2) (y : SourceBuffer), m < k → e.buffers[m] = some y → y.state = .empty ∨ y.state = .filled → ¬ test y

/-- The source lines of a COPY's present chunk, whose destination bytes run from one address to another in
one line (R148), moved by A - B, in the order in which they are fetched (R149). -/
def copySourceLines (a b length progress : Nat) (d : Direction) : List Nat :=
  match d with
  | .ascending =>
    let first := b + progress
    let last := min (lineOf first + 15) (b + length - 1)
    if lineOf (first + a - b) = lineOf (last + a - b) then [lineOf (first + a - b)]
    else [lineOf (first + a - b), lineOf (last + a - b)]
  | .descending =>
    let last := b + length - progress - 1
    let first := max b (lineOf last)
    if lineOf (first + a - b) = lineOf (last + a - b) then [lineOf (first + a - b)]
    else [lineOf (last + a - b), lineOf (first + a - b)]

/-- The source line that a COPY fetches next, and the buffer for it: the first that the chunk needs and no
buffer has, into a buffer that has no line the chunk needs (R149). -/
def CopyFetches (e : Engine) (a b length progress : Nat) (d : Direction) (k : Fin 2) (line : Nat) : Prop :=
  (∃ before after, copySourceLines a b length progress d = before ++ line :: after ∧ ∀ l ∈ before, LineHeld e l) ∧
  ¬ LineHeld e line ∧
  FirstBuffer e (fun x => ∀ l ∈ copySourceLines a b length progress d, x.line = some l → x.state = .empty) k

/-- The line that a SCAN fetches next, and the buffer for it: the line of A at first and then the line after
the highest one named, up to the last of the range, into a buffer that is EMPTY or whose line has been
examined (R151). -/
def ScanFetches (e : Engine) (a length progress : Nat) (k : Fin 2) (line : Nat) : Prop :=
  line ≤ lineOf (a + length - 1) ∧
  ((line = lineOf a ∧ ∀ (m : Fin 2) (y : SourceBuffer), e.buffers[m] = some y → y.line = none) ∨
    ((∃ (m : Fin 2) (y : SourceBuffer) (l : Nat), e.buffers[m] = some y ∧ y.line = some l ∧ line = l + 16) ∧
      ∀ (m : Fin 2) (y : SourceBuffer) (l : Nat), e.buffers[m] = some y → y.line = some l → l + 16 ≤ line)) ∧
  FirstBuffer e (fun x => ∀ l, x.line = some l → l < lineOf (a + progress)) k

/-- The line that a COMPARE fetches next: the chunk's line of A into buffer 0, and when that one is there or in
flight, the chunk's line of B into buffer 1 (R152). -/
def CompareFetches (e : Engine) (a b progress : Nat) (k : Fin 2) (line : Nat) : Prop :=
  let wants := fun (m : Fin 2) (l : Nat) => ∃ x, e.buffers[m] = some x ∧ (x.state = .empty ∨ x.state = .filled) ∧
    ¬ (x.line = some l ∧ x.state = .filled)
  (k = 0 ∧ line = lineOf (a + progress) ∧ wants 0 line) ∨
  (k = 1 ∧ line = lineOf (b + progress) ∧ wants 1 line ∧ ¬ wants 0 (lineOf (a + progress)))

/-- The source line that a job's kind names next, and the buffer that receives it (R145, condition 4). -/
def SourceLineFor (e : Engine) (j : ActiveJob) (k : Fin 2) (line : Nat) : Prop :=
  match j.job.work with
  | .copy a b => ∃ d, j.direction = some d ∧ CopyFetches e a b j.job.length j.progress d k line
  | .fill _ _ => False
  | .scan a _ _ _ => ScanFetches e a j.job.length j.progress k line
  | .compare a b => CompareFetches e a b j.progress k line

/-- The part of the state that the same-event consequences of an event never touch. -/
structure Frozen where
  pending : List Instr
  resetLow : Bool
  clock : Clock
  param : Vector Byte 16
  result : Vector Byte 8
  memoryState : MemoryState
  wide : WideStep
  wideLeft : Nat
  startUp : StartUp
  startClose : Option Nat
  timing : TimingSet
  debt : Nat
  interval : Option Nat
  enable : BitVec 7
  streamEnable : BitVec 4
  pins : MemoryPins
  memory : Memory
  draws : Nat
  deriving DecidableEq, Repr

/-- That part of a state. -/
def frozen (s : State) : Frozen :=
  { pending := s.pending, resetLow := s.resetLow, clock := s.clock, param := s.port.param,
    result := s.port.result, memoryState := s.seq.memory, wide := s.seq.wide, wideLeft := s.seq.wideLeft,
    startUp := s.startUp, startClose := s.startClose, timing := s.timing, debt := s.renewal.debt,
    interval := s.renewal.interval, enable := s.events.enable, streamEnable := s.events.streamEnable,
    pins := s.pins, memory := s.memory, draws := s.draws }

end Sys2Proof.Safety
end

