-- ==== Sys2Proof/Certificates/Slice0/Obligations.lean ====
section
/-! DEFINITION. The statements about the ZK316 model, one def for each. A statement of the form
"exec row s = next (State.finish b u)" gives the state u that the row's own effect makes; State.finish
then runs the same-event consequences, about which other statements speak. -/

section

open Sys2Proof Sys2Proof.Machine Sys2Proof.Safety

/-! ### The machine -/

/-- One step takes the command at the front of the queue. -/
def Obligations.StepTakesTheFrontCommand : Prop :=
  ∀ (c : Instr) (rest : List Instr) (s : State), s.pending = c :: rest →
    step s = exec c { s with pending := rest }

/-- On an empty queue one CLK period passes (the model's choice, log entry 1). While /RESET is low nothing
happens. Else the pins, the intervals and the timebase count the period; a microsecond boundary falls when the
count reaches the divisor; every interval or timer that has ended runs its event, each once, in an order
left open (log entry 7); then the one step that is to go out goes out (log entry 17), those that became due in the
period behind those that commands before it made due (log entry 28). A fault of an event ends the period. -/
def Obligations.EmptyQueueStepIsOneClkPeriod : Prop :=
  ∀ s : State, s.pending = [] →
    (s.resetLow = true → step s = .next s) ∧
    (s.resetLow = false → s.countClk.countMicrosecond.dueEvents = [] → s.seq.due = [] →
      s.countClk.countMicrosecond.nextStep = [] →
      ∃ t, step s = .next t ∧ t.memory = s.memory ∧ t.pins.command = CommandPins.idle ∧
        t.pins.words = s.pins.words.tail ∧
        (∀ b : BankId, t.seq.banks[b].left = s.seq.banks[b].left - 1) ∧
        t.seq.wideLeft = s.seq.wideLeft - 1 ∧
        (s.clock.clkCount + 1 < s.clock.divisor →
          t.clock = { s.clock with clkCount := s.clock.clkCount + 1 }) ∧
        (s.clock.divisor ≤ s.clock.clkCount + 1 → t.clock.clkCount = 0)) ∧
    (s.resetLow = false → ∃ (counted c : State) (events : List Instr),
      counted = { s with
        clock := { s.clock with clkCount := s.clock.clkCount + 1 }
        seq := { s.seq with banks := counted.seq.banks, wideLeft := s.seq.wideLeft - 1 }
        startClose := s.startClose.map fun k => k - 1
        pins := { command := CommandPins.idle, words := s.pins.words.tail } } ∧
      (∀ b : BankId, counted.seq.banks[b] = { s.seq.banks[b] with left := s.seq.banks[b].left - 1 }) ∧
      (s.clock.clkCount + 1 < s.clock.divisor → c = counted) ∧
      (s.clock.divisor ≤ s.clock.clkCount + 1 → exec .microsecondBoundary counted = .next c) ∧
      (∀ i, i ∈ events ↔ EventDue c i) ∧ events.Nodup ∧
      ∀ run : Nat → State, run 0 = { c with draws := if events.length < 2 then c.draws else c.draws + 1 } →
        (∀ m i r, (∀ k j, k < m → events[k]? = some j → exec j (run k) = .next (run (k + 1))) →
          events[m]? = some i → exec i (run m) = .fault r → step s = .fault r) ∧
        ((∀ k j, events[k]? = some j → exec j (run k) = .next (run (k + 1))) →
          ∃ u, u = { run events.length with seq := { (run events.length).seq with
              due := u.seq.due, resetCloseAll := u.seq.resetCloseAll } } ∧
            OrderedAfter s.seq.due.length (fun d => d.1.val) (run events.length).seq.due u.seq.due ∧
            CloseAllPlaced s (run events.length).seq.resetCloseAll u.seq.resetCloseAll u.seq.due ∧
            StepGoesOut u (step s)))

/-- Right after reset every register shows the byte of the Pin reset column, no line is asserted, and the
state is lawful. -/
def Obligations.ResetShowsThePinResetColumn : Prop :=
  (∀ p : Position, State.reset.registerByte p = if p = .poolFree then 48#8 else 0x00#8) ∧
  State.reset.pending = [] ∧ State.reset.waitAsserted = false ∧ State.reset.dataLines = none ∧
  State.reset.intAsserted = false ∧ State.reset.mcke = false ∧
  State.reset.pins.command = CommandPins.idle ∧ State.reset.clock.divisor = 25 ∧
  QueuesWithinCapacity State.reset ∧ OneWaitingPerLine State.reset ∧ ReadAheadLawful State.reset ∧
  BanksLawful State.reset ∧ DebtCapped State.reset ∧ MemoryCanonical State.reset ∧
  SlotsLawful State.reset ∧ SlotsHeld State.reset ∧ OperationsLawful State.reset ∧ OneRetiringPerLine State.reset ∧
  Coherent State.reset ∧ ResettingQuiet State.reset

/-- /RESET falls: no access, nothing driven, /WAIT and /INT released, the memory pins IDLE with no word on the
data pins, MCKE and MCLK low; a byte of memory changes only if a store that was cut off marks it, and then to
that store's byte. -/
def Obligations.PinResetCutsOperationsOff : Prop :=
  ∀ s : State, (s.resetLow = true → exec .pinReset s = .next s) ∧
    (s.resetLow = true → s.dataPins = none) ∧
    (s.resetLow = false → MemoryCanonical s →
      ∃ t, exec .pinReset s = .next t ∧ t.resetLow = true ∧ t.accessCanBegin = false ∧
        t.dataLines = none ∧ t.waitAsserted = false ∧ t.intAsserted = false ∧ t.mcke = false ∧ t.mclkRuns = false ∧
        t.pins.command = CommandPins.idle ∧ t.pins.words = [] ∧ t.dataPins = none ∧ t.pending = s.pending ∧
        ∀ a : Nat, Memory.read t.memory a = Memory.read s.memory a ∨
          ∃ (b : BankId) (o : OwnerRecord) (k : Fin 16), s.seq.banks[b].cutStore = some o ∧
            a = o.line + k.val ∧ o.mask.getLsbD k.val = true ∧
            Memory.read t.memory a = (s.bytesOf o.slot)[k])

/-- /RESET rises: every block takes its pin-reset values. The slots are FREE with their bytes kept, the claim
list is empty and the first search starts at stream 0; memory keeps its bytes. -/
def Obligations.PinResetReleaseGivesResetValues : Prop :=
  (cyclicAfter (8 : Fin 9)).head? = some 0 ∧
  ∀ s : State, (s.resetLow = false → exec .pinResetRelease s = .next s) ∧
    (s.resetLow = true →
      ∃ t, exec .pinResetRelease s = .next t ∧
        t = { State.reset with
              pending := s.pending, pool := { State.reset.pool with slots := t.pool.slots },
              memory := s.memory, draws := s.draws } ∧
        (∀ k : SlotId, t.pool.slots[k].owner = .free ∧ t.bytesOf k = s.bytesOf k) ∧
        t.pool.freeCount = 48 ∧ (∀ c : Fin 9, t.pool.claims[c] = none) ∧ t.pool.grantPos = 8 ∧
        t.pins.command = CommandPins.idle ∧
        (∀ b : BankId, t.seq.banks[b].owner = none ∧ t.seq.banks[b].state = .closed))

/-! ### The register window -/

/-- The rows that are bus accesses and the accesses themselves agree in both directions, and so do the
positions and the address lines. -/
def Obligations.AccessRowsDecodeAndEncode : Prop :=
  (∀ (i : Instr) (p : Position) (a : Access), i.wellFormed = true → busAccessOf i = some (p, a) →
    rowOfAccess p a = i) ∧
  (∀ (p : Position) (a : Access), (rowOfAccess p a).wellFormed = true ∧ busAccessOf (rowOfAccess p a) = some (p, a)) ∧
  (∀ p : Position, positionOf (addressOf p) = p) ∧
  ∀ a : BitVec 6, addressOf (positionOf a) = a

/-- A row that is a bus access is that access, and it does nothing while /RESET is low or a cycle is
stretched (a command then is no access; log entry 3). -/
def Obligations.RowsAreBusAccessesThatMayBeHeldOff : Prop :=
  ∀ (i : Instr) (p : Position) (a : Access) (s : State), busAccessOf i = some (p, a) →
    exec i s = .next (busAccess p a s) ∧
    ((s.resetLow = true ∨ s.waitAsserted = true) → exec i s = .next s)

/-- Accesses that suit no position, or no direction of it, and the bits that a layout leaves unused. -/
def Obligations.AccessesThatSuitNoPosition : Prop :=
  ∀ s : State, s.accessCanBegin = true →
    (∀ k : Fin 6, exec (.unmappedAccess k .read) s =
      .next { s with bus := .answered (some 0x00#8), events := { s.events with portMisuse := true } }) ∧
    (∀ (k : Fin 6) (v : Byte), exec (.unmappedAccess k (.write v)) s =
      .next { s with bus := .answered none, events := { s.events with portMisuse := true } }) ∧
    (∀ t, resettingEnd s = some t → t.events.portMisuse = false) ∧
    exec (.registerWrite .command .read) s = .next { s with bus := .answered (some 0x00#8) } ∧
    (∀ (p : Position) (v : Byte),
      p = .cmdStatus ∨ (∃ i, p = .result i) ∨ (∃ n, p = .streamState n) ∨ p = .memoryStatus ∨
        p = .poolFree ∨ p = .postCount ∨ p = .jobStatus →
      exec (.registerWrite p (.write v)) s = .next (answeredWrite s)) ∧
    (QueuesWithinCapacity s →
      s.registerByte .cmdStatus &&& 0x70#8 = 0#8 ∧ s.registerByte .eventPending &&& 0x80#8 = 0#8 ∧
      s.registerByte .eventEnable &&& 0x80#8 = 0#8 ∧ s.registerByte .streamEventEnable &&& 0xF0#8 = 0#8 ∧
      (∀ n, s.registerByte (.streamEvent n) &&& 0xF0#8 = 0#8) ∧ s.registerByte .memoryStatus &&& 0x08#8 = 0#8 ∧
      s.registerByte .jobStatus &&& 0x80#8 = 0#8 ∧ s.registerByte .control &&& 0xFD#8 = 0#8) ∧
    (∀ v : Byte, exec (.eventPendingWrite v) s = exec (.eventPendingWrite (v &&& 0x73#8)) s ∧
      exec (.eventEnableWrite v) s = exec (.eventEnableWrite (v &&& 0x7F#8)) s ∧
      exec (.streamEventEnableWrite v) s = exec (.streamEventEnableWrite (v &&& 0x0F#8)) s ∧
      (∀ n, exec (.streamEventWrite n v) s = exec (.streamEventWrite n (v &&& 0x0F#8)) s) ∧
      (v.getLsbD 0 = true → exec (.softReset v) s = exec (.softReset 0x01#8) s) ∧
      (v.getLsbD 0 = false → exec (.registerWrite .control (.write v)) s = .next (answeredWrite s)))

/-- A read of a register position answers the byte that the position shows and changes nothing else; what
those bytes mean, field by field and code by code. -/
def Obligations.RegisterReadsShowTheirFields : Prop :=
  (∀ (p : Position) (s : State), plainRead p = true → s.accessCanBegin = true →
     exec (.registerWrite p .read) s = .next { s with bus := .answered (some (s.registerByte p)) }) ∧
  (∀ s : State, QueuesWithinCapacity s → DebtCapped s → (∀ n : StreamId, s.streams[n].heldCount ≤ 16) →
     (∀ i, s.registerByte (.param i) = s.port.param[i]) ∧ (∀ i, s.registerByte (.result i) = s.port.result[i]) ∧
     (∀ c, s.port.state = .executing c → (s.registerByte .cmdStatus).toNat = 128 + s.port.lastResult.code) ∧
     ((s.port.state = .idle ∨ s.port.state = .resetting) →
       (s.registerByte .cmdStatus).toNat = s.port.lastResult.code) ∧
     (∀ n, (s.registerByte (.streamState n)).toNat = 32 * s.streams[n].packedState + s.streams[n].heldCount) ∧
     (s.registerByte .memoryStatus).toNat =
       s.seq.memory.code + (if s.renewal.active then 4 else 0) + 16 * s.renewal.debt ∧
     (s.registerByte .poolFree).toNat = s.pool.freeCount ∧
     (s.registerByte .postCount).toNat = s.post.entries.length ∧
     (s.registerByte .jobStatus).toNat =
       s.engine.jobs.length + (if s.engine.state = .idle then 0 else 8) + 16 * s.engine.completions.length ∧
     (s.registerByte .control = if s.port.state = .resetting then 0x02#8 else 0x00#8) ∧
     (∀ n, (s.registerByte (.streamEvent n)).getLsbD 0 = s.streamFlags[n].endOfWindow ∧
       (s.registerByte (.streamEvent n)).getLsbD 1 = s.streamFlags[n].wrapped ∧
       (s.registerByte (.streamEvent n)).getLsbD 2 = s.streamFlags[n].underrun ∧
       (s.registerByte (.streamEvent n)).getLsbD 3 = s.streamFlags[n].overrun) ∧
     (s.registerByte .eventPending).getLsbD 0 = s.events.cmdDone ∧
     (s.registerByte .eventPending).getLsbD 1 = s.events.cmdRefused ∧
     (s.registerByte .eventPending).getLsbD 4 = s.events.portMisuse ∧
     (s.registerByte .eventPending).getLsbD 5 = s.events.renewalLate ∧
     (s.registerByte .eventPending).getLsbD 6 = s.events.syncDone) ∧
  (ResultCode.ok.code = 0 ∧ ResultCode.badCommand.code = 1 ∧ ResultCode.badStream.code = 2 ∧
    ResultCode.wrongState.code = 3 ∧ ResultCode.badParam.code = 4 ∧ ResultCode.outOfWindow.code = 5 ∧
    ResultCode.notStarted.code = 6 ∧ ResultCode.queueFull.code = 7 ∧ ResultCode.noSuchJob.code = 8 ∧
    ResultCode.empty.code = 9) ∧
  (MemoryState.unstarted.code = 0 ∧ MemoryState.starting.code = 1 ∧ MemoryState.started.code = 2) ∧
  (Stream.closed.packedState = 0 ∧ Stream.closed.heldCount = 0) ∧
  (∀ r : ReadStream, (r.ended = false → r.headFilled = false → (Stream.read r).packedState = 1) ∧
    (r.ended = false → r.headFilled = true → (Stream.read r).packedState = 2) ∧
    (r.ended = true → (Stream.read r).packedState = 3) ∧ (Stream.read r).heldCount = r.queue.length) ∧
  ∀ w : WriteStream, (w.state = .opened → (Stream.write w).packedState = 4) ∧
    (∀ why, w.state = .blocked why → (Stream.write w).packedState = 5) ∧
    (w.state = .draining → (Stream.write w).packedState = 6) ∧
    (w.state = .ended → (Stream.write w).packedState = 7) ∧
    (w.assembly = none → (Stream.write w).heldCount = 0) ∧
    ∀ a, w.assembly = some a →
      (Stream.write w).heldCount = ((List.range 16).filter fun i => a.mask.getLsbD i).length

/-- The parameter block is storage: a write stores the byte, a read returns it, in every command state, with no
other effect; a taken command that stays EXECUTING holds its own copy of the sixteen bytes. -/
def Obligations.ParameterBlockIsStorageCapturedByCommands : Prop :=
  (∀ (i : Fin 16) (v : Byte) (s : State), s.accessCanBegin = true →
    exec (.registerWrite (.param i) (.write v)) s =
      .next { s with bus := .answered none, port := { s.port with param := s.port.param.set i.val v } } ∧
    exec (.registerWrite (.param i) .read) s = .next { s with bus := .answered (some s.port.param[i]) }) ∧
  ∀ (i : Instr) (code : Byte) (s t : State) (c : InProgress), busAccessOf i = some (.command, .write code) →
    TakesCommand s → exec i s = .next t → t.port.state = .executing c → c.params = s.port.param

/-! ### Events and the interrupt line -/

/-- A write of EVENT_PENDING clears the write-1-to-clear flags written as 1 and touches nothing else; a write
of STREAM_EVENTn likewise; the two enable positions store their bits. -/
def Obligations.EventAndEnableWrites : Prop :=
  (∀ (v : Byte) (s : State), s.accessCanBegin = true →
     exec (.eventPendingWrite v) s =
       .next { s with
         bus := .answered none
         events := { s.events with
           cmdDone := s.events.cmdDone && !v.getLsbD 0
           cmdRefused := s.events.cmdRefused && !v.getLsbD 1
           portMisuse := s.events.portMisuse && !v.getLsbD 4
           renewalLate := s.events.renewalLate && !v.getLsbD 5
           syncDone := s.events.syncDone && !v.getLsbD 6 } }) ∧
  (∀ (v : Byte) (s : State), s.accessCanBegin = true →
     (∀ n : StreamId, exec (.streamEventWrite n v) s =
       .next { s with
         bus := .answered none
         streamFlags := s.streamFlags.set n.val
           { endOfWindow := s.streamFlags[n].endOfWindow && !v.getLsbD 0
             wrapped := s.streamFlags[n].wrapped && !v.getLsbD 1
             underrun := s.streamFlags[n].underrun && !v.getLsbD 2
             overrun := s.streamFlags[n].overrun && !v.getLsbD 3 } }) ∧
     (∃ t, exec (.eventEnableWrite v) s = .next t ∧ t.registerByte .eventEnable = v &&& 0x7F#8 ∧
       t = { s with bus := .answered none, events := { s.events with enable := t.events.enable } }) ∧
     (∃ t, exec (.streamEventEnableWrite v) s = .next t ∧ t.registerByte .streamEventEnable = v &&& 0x0F#8 ∧
       t = { s with bus := .answered none, events := { s.events with streamEnable := t.events.streamEnable } }))

/-- /INT is asserted exactly while some pending flag is enabled, and never while /RESET is low or while no
enable is set; STREAM and JOB are computed from their causes, and no write of EVENT_PENDING changes them. -/
def Obligations.InterruptLineAndSummariesFollowTheirCauses : Prop :=
  ((∀ s : State, s.intAsserted = true ↔ s.resetLow = false ∧
     ∃ i, i < 8 ∧ s.eventPending.getLsbD i = true ∧ s.eventEnableByte.getLsbD i = true) ∧
   (∀ s : State, s.resetLow = false → ∃ t, exec .pinReset s = .next t ∧ t.eventPending = 0x00#8 ∧
     t.eventEnableByte = 0x00#8 ∧ t.streamEventEnableByte = 0x00#8 ∧
     (∀ n : StreamId, t.streamFlags[n].byte = 0x00#8) ∧ t.intAsserted = false) ∧
   (∀ s : State, s.resetLow = true → ∃ t, exec .pinResetRelease s = .next t ∧ t.eventEnableByte = 0x00#8 ∧
     t.intAsserted = false) ∧
   ∀ s : State, s.eventEnableByte = 0x00#8 → s.intAsserted = false) ∧
  (∀ s : State,
     (s.eventPending.getLsbD 2 = true ↔ ∃ (n : StreamId) (i : Nat), i < 4 ∧
       s.streamFlags[n].byte.getLsbD i = true ∧ s.streamEventEnableByte.getLsbD i = true) ∧
     (s.resetLow = false → (s.eventPending.getLsbD 3 = true ↔ s.engine.completions ≠ [])) ∧
     ∀ (v : Byte), s.accessCanBegin = true → ∃ t, exec (.eventPendingWrite v) s = .next t ∧
       t.eventPending.getLsbD 2 = s.eventPending.getLsbD 2 ∧ t.eventPending.getLsbD 3 = s.eventPending.getLsbD 3)

/-! ### Data ports -/

/-- A data-port access that does not suit the stream's state or kind is answered at once and sets PORT_MISUSE
only; an access of its own direction in ENDED or DRAINING does not. -/
def Obligations.MisusedDataPortAnswersAndFlags : Prop :=
  ∀ (n : StreamId) (v : Byte) (s : State), TakesAccess s →
    (s.streams[n] = .closed ∨ (∃ w, s.streams[n] = .write w) →
      exec (.dataPortRead n) s =
        .next { s with bus := .answered (some 0x00#8), events := { s.events with portMisuse := true } }) ∧
    (s.streams[n] = .closed ∨ (∃ r, s.streams[n] = .read r) →
      exec (.dataPortWrite n v) s =
        .next { s with bus := .answered none, events := { s.events with portMisuse := true } }) ∧
    (∀ r, s.streams[n] = .read r → r.ended = true →
      ∃ t, exec (.dataPortRead n) s = .next t ∧ t.events = s.events ∧ t.streamFlags[n].underrun = true) ∧
    (∀ w, s.streams[n] = .write w → w.state = .ended ∨ w.state = .draining →
      ∃ t, exec (.dataPortWrite n v) s = .next t ∧ t.events = s.events ∧ t.streamFlags[n].overrun = true)

/-- A read of a READY stream: the byte at the cursor, the cursor's advance, the head's removal when the next byte
lies in another line, and the end policy at the end of the window. -/
def Obligations.ReadyReadDeliversAndAdvances : Prop :=
  ∀ (n : StreamId) (r : ReadStream) (e : ReadEntry) (rest : List ReadEntry) (s : State), TakesAccess s →
    s.streams[n] = .read r → r.ended = false → r.queue = e :: rest → e.state = .filled →
    (r.cursor ≠ r.window.last → e.line = lineOf (r.cursor + 1) →
      exec (.dataPortRead n) s = .next (State.finish s
        ((s.setStream n (.read { r with cursor := r.cursor + 1 })).withBus
          (.answered (some (Line.at (s.bytesOf e.slot) r.cursor)))))) ∧
    (r.cursor ≠ r.window.last → e.line ≠ lineOf (r.cursor + 1) →
      exec (.dataPortRead n) s = .next (State.finish s
        (((s.release e.slot).setStream n (.read { r with cursor := r.cursor + 1, queue := rest })).withBus
          (.answered (some (Line.at (s.bytesOf e.slot) r.cursor)))))) ∧
    (r.cursor = r.window.last → r.window.endPolicy = .stop →
      exec (.dataPortRead n) s = .next (State.finish s
        ((((s.releaseEntries r.queue).setStream n
            (.read { r with cursor := r.cursor + 1, queue := [], ended := true })).mapFlags n
            fun f => { f with endOfWindow := true }).withBus
          (.answered (some (Line.at (s.bytesOf e.slot) r.cursor)))))) ∧
    (r.cursor = r.window.last → r.window.endPolicy = .wrap → e.line = lineOf r.window.first →
      exec (.dataPortRead n) s = .next (State.finish s
        (((s.setStream n (.read { r with cursor := r.window.first })).mapFlags n
            fun f => { f with wrapped := true }).withBus
          (.answered (some (Line.at (s.bytesOf e.slot) r.cursor)))))) ∧
    (r.cursor = r.window.last → r.window.endPolicy = .wrap → e.line ≠ lineOf r.window.first →
      exec (.dataPortRead n) s = .next (State.finish s
        ((((s.release e.slot).setStream n (.read { r with cursor := r.window.first, queue := rest })).mapFlags n
            fun f => { f with wrapped := true }).withBus
          (.answered (some (Line.at (s.bytesOf e.slot) r.cursor))))))

/-- A read of an ENDED stream answers the fill byte with UNDERRUN under either wait policy, and a write of a
read stream is a misuse; a read of an EMPTY stream answers so under NOWAIT, and is stretched with the wait
limit on the stretch timer under WAIT. -/
def Obligations.ReadsOfStreamsThatAreNotReady : Prop :=
  (∀ (n : StreamId) (r : ReadStream) (v : Byte) (s : State), TakesAccess s → s.streams[n] = .read r →
     (r.ended = true → exec (.dataPortRead n) s =
       .next { s with
         bus := .answered (some r.fill)
         streamFlags := s.streamFlags.set n.val { s.streamFlags[n] with underrun := true } }) ∧
     exec (.dataPortWrite n v) s =
       .next { s with bus := .answered none, events := { s.events with portMisuse := true } }) ∧
  (∀ (n : StreamId) (r : ReadStream) (s : State), TakesAccess s → s.streams[n] = .read r → r.ended = false →
     r.headFilled = false →
     (r.window.waitPolicy = .nowait → exec (.dataPortRead n) s =
       .next { s with
         bus := .answered (some r.fill)
         streamFlags := s.streamFlags.set n.val { s.streamFlags[n] with underrun := true } }) ∧
     (∀ limit, r.window.waitPolicy = .wait limit →
       exec (.dataPortRead n) s = .next { s with bus := .stretched n .read limit }))

/-- A stretched cycle that ends with nothing taken, by its timer or by the processor, and the end of an answered
cycle. A timer with boundaries left does not expire (log entry 2). -/
def Obligations.StretchEndsAndCycleEnds : Prop :=
  ∀ s : State, s.resetLow = false →
    (∀ n r left, s.bus = .stretched n .read left → s.streams[n] = .read r →
      (left = 0 → exec .stretchTimerExpiry s =
        .next { s with
          bus := .answered (some r.fill)
          streamFlags := s.streamFlags.set n.val { s.streamFlags[n] with underrun := true } }) ∧
      exec .strobeRemovedEarly s =
        .next { s with
          bus := .idle
          streamFlags := s.streamFlags.set n.val { s.streamFlags[n] with underrun := true } }) ∧
    (∀ n v left, s.bus = .stretched n (.write v) left →
      (left = 0 → exec .stretchTimerExpiry s =
        .next { s with
          bus := .answered none
          streamFlags := s.streamFlags.set n.val { s.streamFlags[n] with overrun := true } }) ∧
      exec .strobeRemovedEarly s =
        .next { s with
          bus := .idle
          streamFlags := s.streamFlags.set n.val { s.streamFlags[n] with overrun := true } }) ∧
    (∀ n a left, s.bus = .stretched n a (left + 1) → exec .stretchTimerExpiry s = .next s) ∧
    (∀ d, s.bus = .answered d → exec .busCycleEnd s = .next { s with bus := .idle }) ∧
    (∀ n a left, s.bus = .stretched n a left → exec .busCycleEnd s = .next s)

/-- The writes of an open write stream that are answered at once by dropping the byte with OVERRUN; what a
stream that waits for a slot gets at its grant; the misuses beside them. -/
def Obligations.DroppedWritesSetOverrun : Prop :=
  ∀ (n : StreamId) (v : Byte) (s : State), TakesAccess s →
    (∀ w, s.streams[n] = .write w →
      ((∃ why, w.state = .blocked why) ∧ w.window.waitPolicy = .nowait) ∨ w.state = .ended ∨ w.state = .draining →
      exec (.dataPortWrite n v) s =
        .next { s with
          bus := .answered none
          streamFlags := s.streamFlags.set n.val { s.streamFlags[n] with overrun := true } }) ∧
    (∀ w k, s.streams[n] = .write w → w.state = .blocked .noSlot → s.bus.waitingWrite n = none →
      s.grantWrite n k = (s.own k (.assembly n)).setStream n
        (.write { w with
          assembly := some { slot := k, line := lineOf w.cursor, mask := 0#16, frozen := false }
          state := .opened })) ∧
    (s.streams[n] = .closed → exec (.dataPortWrite n v) s =
      .next { s with bus := .answered none, events := { s.events with portMisuse := true } }) ∧
    (∀ w, s.streams[n] = .write w → exec (.dataPortRead n) s =
      .next { s with bus := .answered (some 0x00#8), events := { s.events with portMisuse := true } })

/-- A write of a BLOCKED stream under WAIT stretches the cycle with the byte held; a write in OPEN without
assembly claims a slot: with one FREE the byte is placed in the new assembly, else the stream is BLOCKED
with its claim made, the cycle stretched under WAIT and the byte dropped under NOWAIT. Placing a byte: it
is stored and marked at the cursor's offset, the cursor advances, the linger timer starts again, and the
assembly is posted when the cursor leaves its line or reaches the end. That the slot taken is the lowest-numbered
FREE one is the model's choice (log entry 10), and so is that the claim is granted in the write's own event before
any other, with the grant position moved (log entry 24). -/
def Obligations.WritesPlaceBytesOrClaim : Prop :=
  (∀ (n : StreamId) (w : WriteStream) (v : Byte) (s : State), TakesAccess s → s.streams[n] = .write w →
     (∀ why limit, w.state = .blocked why → w.window.waitPolicy = .wait limit →
       exec (.dataPortWrite n v) s = .next { s with bus := .stretched n (.write v) limit }) ∧
     (w.state = .opened → w.assembly = none →
       (∀ k, s.pool.firstFree = some k →
         exec (.dataPortWrite n v) s = .next (State.finish (answeredWrite s)
           ((((answeredWrite s).withPool { s.pool with grantPos := n.castLE (by decide) }).own k (.assembly n)).placeByte n
             (w.withAssembly k) { slot := k, line := lineOf w.cursor, mask := 0#16, frozen := false } v))) ∧
       (s.pool.firstFree = none →
         (Stream.write { w with state := .blocked .noSlot }).claim = some { cls := .essential, purpose := .assembly } ∧
         (∀ limit, w.window.waitPolicy = .wait limit →
           exec (.dataPortWrite n v) s = .next (State.finish (answeredWrite s)
             ((s.setStream n (.write { w with state := .blocked .noSlot })).withBus
               (.stretched n (.write v) limit)))) ∧
         (w.window.waitPolicy = .nowait →
           exec (.dataPortWrite n v) s = .next (State.finish (answeredWrite s)
             (((answeredWrite s).setStream n (.write { w with state := .blocked .noSlot })).mapFlags n
               fun f => { f with overrun := true }))))) ∧
     (w.state = .opened → ∀ a, w.assembly = some a →
       exec (.dataPortWrite n v) s = .next (State.finish (answeredWrite s) ((answeredWrite s).placeByte n w a v)))) ∧
  (∀ (n : StreamId) (w : WriteStream) (a : Assembly) (v : Byte) (s : State),
     let stored := s.setSlot a.slot
       { s.pool.slots[a.slot] with bytes := (s.bytesOf a.slot).set (w.cursor % 16) v (Nat.mod_lt _ (by decide)) }
     let marked := { a with mask := a.mask ||| BitVec.twoPow 16 (w.cursor % 16) }
     let moved := { w with
       cursor := w.cursor + 1, lingerTimer := if w.linger = 0 then none else some (w.linger * 16) }
     (w.cursor ≠ w.window.last → lineOf (w.cursor + 1) = a.line →
       s.placeByte n w a v = stored.setStream n (.write { moved with assembly := some marked, state := .opened })) ∧
     (w.cursor ≠ w.window.last → lineOf (w.cursor + 1) ≠ a.line →
       s.placeByte n w a v = stored.postAssembly n moved marked .opened (.blocked .postFull)) ∧
     (w.cursor = w.window.last → w.window.endPolicy = .stop →
       s.placeByte n w a v = (stored.postAssembly n moved marked .ended .ended).mapFlags n
         fun f => { f with endOfWindow := true }) ∧
     (w.cursor = w.window.last → w.window.endPolicy = .wrap →
       s.placeByte n w a v =
         (stored.postAssembly n { moved with cursor := w.window.first } marked .opened
           (.blocked .postFull)).mapFlags n fun f => { f with wrapped := true }))

/-- A post offered to the Post Queue: merged into the WAITING entry for its line, appended as a new entry, or not
accepted; either acceptance patches the FILLED entries for the line. -/
def Obligations.PostIsMergedAppendedOrHeld : Prop :=
  ∀ (line : Nat) (mask : ByteMask) (k : SlotId) (s : State),
    (∀ e, s.post.waitingFor line = some e →
      s.acceptPost line mask k = some
        ((((s.fillSlot e.slot (overlay (s.bytesOf e.slot) (s.bytesOf k) mask)).withPost
          { s.post with entries := s.post.entries.map fun x =>
              if x.line = line ∧ x.state = .waiting then { x with mask := x.mask ||| mask } else x }).release k).patchFilled
          line mask (s.bytesOf k))) ∧
    (s.post.waitingFor line = none → s.post.entries.length < 16 →
      s.acceptPost line mask k = some
        (((s.withPost { s.post with entries := s.post.entries ++
            [{ line := line, mask := mask, slot := k, state := .waiting, tag := false }] }).own k .post).patchFilled
          line mask (s.bytesOf k))) ∧
    (s.post.waitingFor line = none → 16 ≤ s.post.entries.length → s.acceptPost line mask k = none) ∧
    ∀ (n : StreamId) (w : WriteStream) (a : Assembly) (x y : WriteState),
      (∀ t, s.acceptPost a.line a.mask a.slot = some t →
        s.postAssembly n w a x y =
          t.setStream n (.write { w with lingerTimer := none, assembly := none, state := x })) ∧
      (s.acceptPost a.line a.mask a.slot = none →
        s.postAssembly n w a x y = s.setStream n
          (.write { w with lingerTimer := none, assembly := some { a with frozen := true }, state := y }))

/-! ### Stream commands -/

/-- OPEN_READ that passes its checks makes the context R9 lists, which has a fetch need; OPEN_WRITE the
context R10 lists, which holds no slot and makes no claim. -/
def Obligations.OpenMakesTheContextAskedFor : Prop :=
  (∀ (n : StreamId) (s : State), TakesCommand s → s.streams[n] = .closed → s.port.param[0].toNat = n.val →
     ¬ BadPolicies s.port.param → 1 ≤ s.port.param[10].toNat → s.port.param[10].toNat ≤ 8 →
     s.seq.memory = .started → WindowFits s.port.param s →
     ∃ r : ReadStream,
       r.window.first = Params.addressAt s.port.param 1 ∧ r.window.last = Params.addressAt s.port.param 4 ∧
       (s.port.param[7] = 0#8 → r.window.endPolicy = .stop) ∧ (s.port.param[7] = 1#8 → r.window.endPolicy = .wrap) ∧
       (s.port.param[8] = 0#8 → r.window.waitPolicy = .nowait) ∧
       (s.port.param[8] = 1#8 → r.window.waitPolicy = .wait s.port.param[9].toNat) ∧
       r.depth = s.port.param[10].toNat ∧ r.fill = s.port.param[11] ∧ r.cursor = r.window.first ∧
       r.fetchCursor = lineOf r.window.first ∧ r.queue = [] ∧ r.ended = false ∧ r.ready = false ∧
       r.fetchNeed = true ∧
       exec .openRead s = .next (State.finish (answeredWrite s)
         (completedWith ((answeredWrite s).setStream n (.read r)) .ok))) ∧
  (∀ (n : StreamId) (s : State), TakesCommand s → s.streams[n] = .closed → s.port.param[0].toNat = n.val →
     ¬ BadPolicies s.port.param → s.seq.memory = .started → WindowFits s.port.param s →
     ∃ w : WriteStream,
       w.window.first = Params.addressAt s.port.param 1 ∧ w.window.last = Params.addressAt s.port.param 4 ∧
       (s.port.param[7] = 0#8 → w.window.endPolicy = .stop) ∧ (s.port.param[7] = 1#8 → w.window.endPolicy = .wrap) ∧
       (s.port.param[8] = 0#8 → w.window.waitPolicy = .nowait) ∧
       (s.port.param[8] = 1#8 → w.window.waitPolicy = .wait s.port.param[9].toNat) ∧
       w.linger = s.port.param[10].toNat ∧ w.cursor = w.window.first ∧ w.lingerTimer = none ∧ w.assembly = none ∧
       w.state = .opened ∧ (Stream.write w).claim = none ∧
       exec .openWrite s = .next (State.finish (answeredWrite s)
         (completedWith ((answeredWrite s).setStream n (.write w)) .ok)))

/-- The checks of OPEN_READ and OPEN_WRITE in their order; a refused OPEN completes with its code and changes
nothing else. -/
def Obligations.OpenChecksInOrder : Prop :=
  ∀ s : State, TakesCommand s →
    (8 ≤ s.port.param[0].toNat →
      exec .openRead s = .next (completedWith (answeredWrite s) .badStream) ∧
      exec .openWrite s = .next (completedWith (answeredWrite s) .badStream)) ∧
    ∀ n : StreamId, s.port.param[0].toNat = n.val →
      (s.streams[n] ≠ .closed →
        exec .openRead s = .next (completedWith (answeredWrite s) .wrongState) ∧
        exec .openWrite s = .next (completedWith (answeredWrite s) .wrongState)) ∧
      (s.streams[n] = .closed →
        (BadPolicies s.port.param ∨ s.port.param[10].toNat = 0 ∨ 8 < s.port.param[10].toNat →
          exec .openRead s = .next (completedWith (answeredWrite s) .badParam)) ∧
        (BadPolicies s.port.param → exec .openWrite s = .next (completedWith (answeredWrite s) .badParam)) ∧
        (¬ BadPolicies s.port.param →
          (s.seq.memory ≠ .started →
            (1 ≤ s.port.param[10].toNat → s.port.param[10].toNat ≤ 8 →
              exec .openRead s = .next (completedWith (answeredWrite s) .notStarted)) ∧
            exec .openWrite s = .next (completedWith (answeredWrite s) .notStarted)) ∧
          (s.seq.memory = .started → ¬ WindowFits s.port.param s →
            (1 ≤ s.port.param[10].toNat → s.port.param[10].toNat ≤ 8 →
              exec .openRead s = .next (completedWith (answeredWrite s) .outOfWindow)) ∧
            exec .openWrite s = .next (completedWith (answeredWrite s) .outOfWindow))))

/-- SEEK, FLUSH and CLOSE refused: a stream number above 7, a CLOSED stream, FLUSH of a read stream, a target
outside the window. -/
def Obligations.StreamCommandsRefuseInOrder : Prop :=
  ∀ s : State, TakesCommand s →
    (8 ≤ s.port.param[0].toNat → ∀ i, i = .seek ∨ i = .flush ∨ i = .close →
      exec i s = .next (completedWith (answeredWrite s) .badStream)) ∧
    ∀ n : StreamId, s.port.param[0].toNat = n.val →
      (s.streams[n] = .closed → ∀ i, i = .seek ∨ i = .flush ∨ i = .close →
        exec i s = .next (completedWith (answeredWrite s) .wrongState)) ∧
      (∀ r, s.streams[n] = .read r → exec .flush s = .next (completedWith (answeredWrite s) .wrongState)) ∧
      (∀ x : Window, (∃ r, s.streams[n] = .read r ∧ r.window = x) ∨ (∃ w, s.streams[n] = .write w ∧ w.window = x) →
        Params.addressAt s.port.param 1 < x.first ∨ x.last < Params.addressAt s.port.param 1 →
        exec .seek s = .next (completedWith (answeredWrite s) .outOfWindow))

/-- What becomes of an entry removed from a read-ahead queue: FILLED or REQUESTED, its slot is FREE; IN_FLIGHT,
its slot passes to DISCARD and the fetch that holds its bank gets the discard mark. No flag is set. Several are
released one after the other, the first in the queue first. -/
def Obligations.RemovedEntriesAreReleasedByState : Prop :=
  ∀ (e : ReadEntry) (s : State),
    (e.state = .filled ∨ e.state = .requested →
      s.releaseEntry e = s.setSlot e.slot { s.pool.slots[e.slot] with owner := .free }) ∧
    (e.state = .inFlight → ∀ o, s.seq.banks[bankOf e.line].owner = some o → o.op = .fetch → o.slot = e.slot →
      s.releaseEntry e =
        (s.setBank (bankOf e.line)
          { s.seq.banks[bankOf e.line] with owner := some { o with discard := true } }).setSlot e.slot
          { s.pool.slots[e.slot] with owner := .discard }) ∧
    (s.releaseEntry e).streamFlags = s.streamFlags ∧ (s.releaseEntry e).events = s.events ∧
    s.releaseEntries [] = s ∧ ∀ es : List ReadEntry, s.releaseEntries (e :: es) = (s.releaseEntry e).releaseEntries es

/-- SEEK of a read stream within its window: the entries before the first one for the target's line are let go,
all of them when there is none; then the fetch cursor becomes that line. CLOSE lets every entry go. -/
def Obligations.SeekAndCloseOfReadStream : Prop :=
  ∀ (n : StreamId) (r : ReadStream) (s : State), TakesCommand s → s.port.param[0].toNat = n.val →
    s.streams[n] = .read r →
    (∀ t, t = Params.addressAt s.port.param 1 → r.window.first ≤ t → t ≤ r.window.last →
      ((∃ e ∈ r.queue, e.line = lineOf t) →
        exec .seek s = .next (State.finish (answeredWrite s) (completedWith
          (((answeredWrite s).releaseEntries (r.queue.takeWhile fun e => e.line ≠ lineOf t)).setStream n
            (.read { r with
              cursor := t, queue := r.queue.dropWhile fun e => e.line ≠ lineOf t, ended := false })) .ok))) ∧
      ((∀ e ∈ r.queue, e.line ≠ lineOf t) →
        exec .seek s = .next (State.finish (answeredWrite s) (completedWith
          (((answeredWrite s).releaseEntries r.queue).setStream n
            (.read { r with cursor := t, queue := [], fetchCursor := lineOf t, ended := false })) .ok)))) ∧
    exec .close s = .next (State.finish (answeredWrite s) (completedWith
      (((answeredWrite s).releaseEntries r.queue).setStream n .closed) .ok))

/-- FLUSH, SEEK and CLOSE of a write stream in each of its states; the target of SEEK is taken from the copy
of the parameter block. -/
def Obligations.FlushSeekAndCloseOfWriteStream : Prop :=
  (∀ (n : StreamId) (w : WriteStream) (s : State), TakesCommand s → s.port.param[0].toNat = n.val →
     s.streams[n] = .write w →
     WriteCommandTable .flush .flush (fun x => .write (emptiedStream x)) .write n w s ∧
     (w.state = .ended → exec .flush s =
       .next (State.finish (answeredWrite s) (completedWith (answeredWrite s) .ok)))) ∧
  (∀ (n : StreamId) (w : WriteStream) (s : State) (t : Nat), TakesCommand s → s.port.param[0].toNat = n.val →
     s.streams[n] = .write w → t = Params.addressAt s.port.param 1 → w.window.first ≤ t → t ≤ w.window.last →
     WriteCommandTable .seek .seek (fun x => .write { emptiedStream x with cursor := t })
       (fun x => .write { x with cursor := t }) n w s ∧
     (w.state = .ended → w.assembly = none → exec .seek s =
       .next (State.finish (answeredWrite s) (completedWith
         ((answeredWrite s).setStream n (.write { emptiedStream w with cursor := t })) .ok))) ∧
     (w.state = .ended → (∃ a, w.assembly = some a) → exec .seek s =
       .next (State.finish (answeredWrite s)
         (executingWith ((answeredWrite s).setStream n (.write (drainingStream w))) .seek)))) ∧
  (∀ (n : StreamId) (w : WriteStream) (s : State), TakesCommand s → s.port.param[0].toNat = n.val →
     s.streams[n] = .write w →
     WriteCommandTable .close .close (fun _ => .closed) (fun _ => .closed) n w s ∧
     (w.state = .ended → w.assembly = none → exec .close s =
       .next (State.finish (answeredWrite s) (completedWith ((answeredWrite s).setStream n .closed) .ok))) ∧
     (w.state = .ended → (∃ a, w.assembly = some a) → exec .close s =
       .next (State.finish (answeredWrite s)
         (executingWith ((answeredWrite s).setStream n (.write (drainingStream w))) .close))))

/-- QUERY_STREAM: a stream number above 7 is refused; else the eight RESULT bytes are the stream's picture, with
the state codes of R19. -/
def Obligations.QueryStreamReportsThePicture : Prop :=
  ∀ s : State, TakesCommand s →
    (8 ≤ s.port.param[0].toNat → exec .queryStream s = .next (completedWith (answeredWrite s) .badStream)) ∧
    ∀ n : StreamId, s.port.param[0].toNat = n.val →
      ∃ q : Vector Byte 8,
        exec .queryStream s = .next (completedWith
          { answeredWrite s with port := { s.port with result := q } } .ok) ∧
        (s.streams[n] = .closed → q = Vector.replicate 8 0x00#8) ∧
        (∀ r, s.streams[n] = .read r →
          (r.ended = true → q[0] = 0x13#8) ∧ (r.ended = false → r.headFilled = true → q[0] = 0x12#8) ∧
          (r.ended = false → r.headFilled = false → q[0] = 0x11#8) ∧
          q[1] = BitVec.ofNat 8 r.queue.length ∧ q[2] = BitVec.ofNat 8 r.cursor ∧
          q[3] = BitVec.ofNat 8 (r.cursor / 256) ∧ q[4] = BitVec.ofNat 8 (r.cursor / 65536) ∧
          q[5] = BitVec.ofNat 8 r.fetchCursor ∧ q[6] = BitVec.ofNat 8 (r.fetchCursor / 256) ∧
          q[7] = BitVec.ofNat 8 (r.fetchCursor / 65536)) ∧
        (∀ w, s.streams[n] = .write w →
          (w.state = .opened → q[0] = 0x21#8) ∧ (w.state = .blocked .postFull → q[0] = 0x22#8) ∧
          (w.state = .blocked .noSlot → q[0] = 0x23#8) ∧ (w.state = .draining → q[0] = 0x24#8) ∧
          (w.state = .ended → q[0] = 0x25#8) ∧
          (w.assembly = none → q[1] = 0x00#8) ∧
          (∀ a, w.assembly = some a →
            q[1] = BitVec.ofNat 8 ((List.range 16).filter fun i => a.mask.getLsbD i).length) ∧
          q[2] = BitVec.ofNat 8 w.cursor ∧ q[3] = BitVec.ofNat 8 (w.cursor / 256) ∧
          q[4] = BitVec.ofNat 8 (w.cursor / 65536) ∧ q[5] = 0x00#8 ∧ q[6] = 0x00#8 ∧ q[7] = 0x00#8)

/-- SYNC tags every entry present, or sets SYNC_DONE when there is none. -/
def Obligations.SyncTagsEveryEntryPresent : Prop :=
  ∀ s : State, TakesCommand s →
    (s.post.entries = [] → exec .sync s =
      .next (completedWith { answeredWrite s with events := { s.events with syncDone := true } } .ok)) ∧
    (s.post.entries ≠ [] → exec .sync s =
      .next (completedWith { answeredWrite s with
        post := { s.post with entries := s.post.entries.map fun e => { e with tag := true } } } .ok))

/-! ### Jobs -/

/-- SUBMIT_JOB: the checks in their order, and the job appended to the job queue. -/
def Obligations.SubmitJobChecksAndQueues : Prop :=
  ∀ s : State, TakesCommand s →
    let p := s.port.param
    let a := Params.addressAt p 2
    let b := Params.addressAt p 5
    let length := Params.addressAt p 8
    let fitted := s.timing.rowsFitted * 4096
    (p[1].toNat = 0 ∨ 4 < p[1].toNat ∨ length = 0 ∨ (p[1] = 3#8 ∧ 1 < p[14].toNat) →
      exec .submitJob s = .next (completedWith (answeredWrite s) .badParam)) ∧
    ∀ work : Work,
      (p[1] = 1#8 ∧ work = .copy a b) ∨ (p[1] = 2#8 ∧ work = .fill a p[11]) ∨
        (p[1] = 3#8 ∧ p[14] = 0#8 ∧ work = .scan a p[12] p[13] .onMatch) ∨
        (p[1] = 3#8 ∧ p[14] = 1#8 ∧ work = .scan a p[12] p[13] .onMismatch) ∨
        (p[1] = 4#8 ∧ work = .compare a b) →
      length ≠ 0 →
      (s.seq.memory ≠ .started → exec .submitJob s = .next (completedWith (answeredWrite s) .notStarted)) ∧
      (s.seq.memory = .started →
        (fitted < a + length ∨ ((p[1] = 1#8 ∨ p[1] = 4#8) ∧ fitted < b + length) →
          exec .submitJob s = .next (completedWith (answeredWrite s) .outOfWindow)) ∧
        (a + length ≤ fitted → (p[1] = 1#8 ∨ p[1] = 4#8 → b + length ≤ fitted) →
          (4 ≤ s.engine.jobs.length → exec .submitJob s = .next (completedWith (answeredWrite s) .queueFull)) ∧
          (s.engine.jobs.length < 4 → exec .submitJob s = .next (State.finish (answeredWrite s) (completedWith
            { answeredWrite s with engine := { s.engine with
              jobs := s.engine.jobs ++ [{ tag := p[0], work := work, length := length }] } } .ok)))))

/-- CANCEL_JOB: its two checks, the CANCELLED records of the queued jobs, the active job's cancel flag with its
request withdrawn, and RESULT0 and RESULT1. -/
def Obligations.CancelJobRemovesAndFlags : Prop :=
  ∀ s : State, TakesCommand s →
    let tag := s.port.param[0]
    let removed := s.engine.jobs.filter fun j => j.tag = tag
    let active := ∃ j, (s.engine.state = .acquiring j ∨ s.engine.state = .running j) ∧ j.job.tag = tag
    let room := 4 - s.engine.completions.length
    (removed = [] → ¬ active → exec .cancelJob s = .next (completedWith (answeredWrite s) .noSuchJob)) ∧
    (removed ≠ [] → room < removed.length ∨ (∃ r, s.engine.state = .completing r) →
      exec .cancelJob s = .next (completedWith (answeredWrite s) .queueFull)) ∧
    (removed ≠ [] ∨ active → removed.length ≤ room → (removed ≠ [] → ∀ r, s.engine.state ≠ .completing r) →
      ∃ u : State, exec .cancelJob s = .next (State.finish (answeredWrite s) u) ∧
        u = completedWith { answeredWrite s with
          engine := u.engine, port := { s.port with result := u.port.result } } .ok ∧
        u.engine.jobs = (s.engine.jobs.filter fun j => j.tag ≠ tag) ∧
        u.engine.completions = s.engine.completions ++ (removed.map fun j =>
          { tag := j.tag, kind := j.work.kind, outcome := .cancelled, value := 0 }) ∧
        u.engine.dest = s.engine.dest ∧
        (¬ active → u.engine.state = s.engine.state ∧ u.engine.buffers = s.engine.buffers) ∧
        (active → (∀ j, s.engine.state = .acquiring j → u.engine.state = .acquiring { j with cancel := true }) ∧
          (∀ j, s.engine.state = .running j → u.engine.state = .running { j with cancel := true }) ∧
          ∀ k : Fin 2, u.engine.buffers[k] = (s.engine.buffers[k]).map fun x =>
            if x.state = .requested then { x with line := none, state := .empty } else x) ∧
        u.port.result[0] = BitVec.ofNat 8 removed.length ∧
        (∀ j, (s.engine.state = .acquiring j ∨ s.engine.state = .running j) → j.job.tag = tag → j.cancel = false →
          u.port.result[1] = 0x01#8) ∧
        (¬ active → u.port.result[1] = 0x00#8) ∧
        ∀ k : Fin 8, 2 ≤ k.val → u.port.result[k] = s.port.result[k])

/-- TAKE_COMPLETION: EMPTY when there is no record; else the head record leaves, a COMPLETING engine's record joins
the tail, and the RESULT bytes show the record. The codes of the kinds and outcomes. -/
def Obligations.TakeCompletionReportsTheHeadRecord : Prop :=
  (JobKind.copy.code = 1 ∧ JobKind.fill.code = 2 ∧ JobKind.scan.code = 3 ∧ JobKind.compare.code = 4 ∧
    JobOutcome.complete.code = 1 ∧ JobOutcome.found.code = 2 ∧ JobOutcome.notFound.code = 3 ∧
    JobOutcome.equal.code = 4 ∧ JobOutcome.different.code = 5 ∧ JobOutcome.cancelled.code = 6) ∧
  ∀ s : State, TakesCommand s →
    (s.engine.completions = [] → exec .takeCompletion s = .next (completedWith (answeredWrite s) .empty)) ∧
    ∀ (r : CompletionRecord) (rest : List CompletionRecord), s.engine.completions = r :: rest →
      (∀ x, s.engine.state = .completing x →
        exec .takeCompletion s = .next (State.finish (answeredWrite s) (completedWith
          { answeredWrite s with
            engine := { s.engine with state := .idle, completions := rest ++ [x] }
            port := { s.port with result :=
              #v[r.tag, BitVec.ofNat 8 r.kind.code, BitVec.ofNat 8 r.outcome.code, BitVec.ofNat 8 r.value,
                 BitVec.ofNat 8 (r.value / 256), BitVec.ofNat 8 (r.value / 65536),
                 BitVec.ofNat 8 (rest.length + 1), 0x00#8] } } .ok))) ∧
      ((∀ x, s.engine.state ≠ .completing x) →
        exec .takeCompletion s = .next (State.finish (answeredWrite s) (completedWith
          { answeredWrite s with
            engine := { s.engine with completions := rest }
            port := { s.port with result :=
              #v[r.tag, BitVec.ofNat 8 r.kind.code, BitVec.ofNat 8 r.outcome.code, BitVec.ofNat 8 r.value,
                 BitVec.ofNat 8 (r.value / 256), BitVec.ofNat 8 (r.value / 65536),
                 BitVec.ofNat 8 rest.length, 0x00#8] } } .ok))) ∧
      ∀ (u : State) (j : Job) (more : List Job), u.engine.state = .idle → u.engine.jobs = j :: more →
        ∃ t, jobStart u = some t ∧ t.engine.jobs = more ∧ t.engine.completions = u.engine.completions

/-! ### Memory and clock commands -/

/-- SET_TIMING: WRONG_STATE unless UNSTARTED, BAD_PARAM for a member out of its range, else all ten members. -/
def Obligations.SetTimingReplacesAllMembers : Prop :=
  ∀ s : State, TakesCommand s →
    (s.seq.memory ≠ .unstarted → exec .setTiming s = .next (completedWith (answeredWrite s) .wrongState)) ∧
    (s.seq.memory = .unstarted → ∀ p, p = s.port.param →
      let inRange := 1 ≤ p[0].toNat ∧ p[0].toNat ≤ 15 ∧ 1 ≤ p[1].toNat ∧ p[1].toNat ≤ 15 ∧
        2 ≤ p[2].toNat ∧ p[2].toNat ≤ 3 ∧ 1 ≤ p[3].toNat ∧ p[3].toNat ≤ 7 ∧ 2 ≤ p[4].toNat ∧ p[4].toNat ≤ 31 ∧
        1 ≤ p[5].toNat ∧ p[5].toNat ≤ 7 ∧ 1 ≤ p[6].toNat ∧ p[6].toNat ≤ 100 ∧ 1 ≤ p[7].toNat ∧ p[7].toNat ≤ 63 ∧
        1 ≤ p[8].toNat ∧ p[8].toNat ≤ 3 ∧ p[9].toNat ≤ 1
      (¬ inRange → exec .setTiming s = .next (completedWith (answeredWrite s) .badParam)) ∧
      (inRange → exec .setTiming s = .next (completedWith
        { answeredWrite s with timing :=
          { openSettle := p[0].toNat, closeSettle := p[1].toNat, readLatency := p[2].toNat,
            writeRecovery := p[3].toNat, renewDuration := p[4].toNat, optionLoad := p[5].toNat,
            rowAgeLimit := p[6].toNat, renewalInterval := p[7].toNat,
            rowsFitted := if p[8] = 1#8 then 1024 else if p[8] = 2#8 then 2048 else 4096,
            rowPolicy := if p[9] = 0#8 then .keepOpen else .closeAfter } } .ok)))

/-- The start-up sequence from MEM_START to STARTED, event by event; what ends of an abandoned step do; MCKE is
high from MEM_START on, and while an abandoned step runs out. -/
def Obligations.StartUpPassesThroughItsPhases : Prop :=
  ∀ s : State,
    (TakesCommand s → s.seq.memory ≠ .unstarted →
      exec .memStart s = .next (completedWith (answeredWrite s) .wrongState)) ∧
    (TakesCommand s → s.seq.memory = .unstarted →
      exec .memStart s = .next (executingWith
        { answeredWrite s with seq := { s.seq with memory := .starting }, startUp := .settle 300 } .memStart)) ∧
    (s.resetLow = false → s.startUp = .settle 0 → exec .settleEnd s = .next { s with startUp := .closeCalled }) ∧
    (s.resetLow = false → ∀ left, s.startClose = some left →
      exec (.closeSettleEnd .startUp) s = .next { s with
        startClose := none
        startUp := if s.startUp = .closeSettling then .renewCalled false else s.startUp
        pins := { s.pins with command := CommandPins.idle } }) ∧
    (s.resetLow = false → s.seq.wide = .renewing → s.renewal.active = false →
      ∃ u : State, exec .renewalComplete s = .next (State.finish s u) ∧
        u = { s with
          seq := { s.seq with wide := .none, wideLeft := 0 }, startUp := u.startUp
          pins := { s.pins with command := CommandPins.idle } } ∧
        (s.startUp = .renewRunning false → u.startUp = .renewCalled true) ∧
        (s.startUp = .renewRunning true → u.startUp = .loadCalled) ∧
        ((∀ second, s.startUp ≠ .renewRunning second) → u.startUp = s.startUp)) ∧
    (s.resetLow = false → s.seq.wide = .loading → s.startUp = .loadRunning →
      exec .optionLoadEnd s = .next (completedWith { s with
        seq := { s.seq with wide := .none, wideLeft := 0, memory := .started }, startUp := .none
        renewal := { debt := 0, interval := some s.timing.renewalInterval, active := false }
        pins := { s.pins with command := CommandPins.idle } } .ok)) ∧
    (s.resetLow = false → s.seq.wide = .loading → s.startUp ≠ .loadRunning →
      exec .optionLoadEnd s = .next { s with
        seq := { s.seq with wide := .none, wideLeft := 0 }
        pins := { s.pins with command := CommandPins.idle } }) ∧
    (s.mcke = true ↔
      s.resetLow = false ∧ (s.seq.memory ≠ .unstarted ∨ s.startClose ≠ none ∨ s.seq.wide ≠ .none))

/-- SET_CLOCK: a frequency of 4 to 100 is accepted and becomes the divisor at the next microsecond boundary;
at a boundary every running timer counts it, and nothing else but the timebase changes. -/
def Obligations.SetClockActsAtTheNextBoundary : Prop :=
  (∀ s : State,
     (TakesCommand s → s.port.param[0].toNat < 4 ∨ 100 < s.port.param[0].toNat →
       exec .setClock s = .next (completedWith (answeredWrite s) .badParam)) ∧
     (TakesCommand s → 4 ≤ s.port.param[0].toNat → s.port.param[0].toNat ≤ 100 →
       exec .setClock s = .next (completedWith
         { answeredWrite s with clock := { s.clock with nextDivisor := some s.port.param[0].toNat } } .ok)) ∧
     (s.resetLow = false → ∃ t, exec .microsecondBoundary s = .next t ∧ t.clock.clkCount = 0 ∧
       t.clock.nextDivisor = none ∧ (∀ d, s.clock.nextDivisor = some d → t.clock.divisor = d) ∧
       (s.clock.nextDivisor = none → t.clock.divisor = s.clock.divisor))) ∧
  (∀ s : State, s.resetLow = false →
     ∃ t, exec .microsecondBoundary s = .next t ∧
       t = { s with
         bus := t.bus, clock := t.clock, streams := t.streams, seq := { s.seq with banks := t.seq.banks }
         startUp := t.startUp, renewal := { s.renewal with interval := s.renewal.interval.map fun k => k - 1 } } ∧
       (∀ n a left, s.bus = .stretched n a left → t.bus = .stretched n a (left - 1)) ∧
       (s.waitAsserted = false → t.bus = s.bus) ∧
       (∀ n : StreamId, (∀ w, s.streams[n] = .write w →
           t.streams[n] = .write { w with lingerTimer := w.lingerTimer.map fun k => k - 1 }) ∧
         ((∀ w, s.streams[n] ≠ .write w) → t.streams[n] = s.streams[n])) ∧
       (∀ b : BankId, t.seq.banks[b] =
         { s.seq.banks[b] with rowAge := s.seq.banks[b].rowAge.map fun k => k - 1 }) ∧
       (∀ k, s.startUp = .settle k → t.startUp = .settle (k - 1)) ∧
       ((∀ k, s.startUp ≠ .settle k) → t.startUp = s.startUp))

/-! ### Taking commands, soft reset -/

/-- A write of COMMAND in EXECUTING sets CMD_REFUSED only, whatever its code; a code not in the table completes
with BAD_COMMAND; in RESETTING the write is ignored, as are the data ports and CONTROL, while PARAM and
the status positions are accessed as ever. -/
def Obligations.CommandsAndAccessesByCommandState : Prop :=
  (∀ (i : Instr) (code : Byte) (s : State), busAccessOf i = some (.command, .write code) →
     s.accessCanBegin = true →
     (∀ c, s.port.state = .executing c →
       exec i s = .next { s with bus := .answered none, events := { s.events with cmdRefused := true } }) ∧
     (s.port.state = .resetting → exec i s = .next (answeredWrite s)) ∧
     (s.port.state = .idle → commandCodes.contains code = false →
       exec i s = .next (completedWith (answeredWrite s) .badCommand)) ∧
     (s.port.state = .idle → exec i s = .next (runCommand code s.port.param (answeredWrite s)))) ∧
  (∀ s : State, s.accessCanBegin = true → s.port.state = .resetting → s.port.lastResult = .ok →
     (∀ n, exec (.dataPortRead n) s = .next { s with bus := .answered (some 0xFF#8) }) ∧
     (∀ n v, exec (.dataPortWrite n v) s = .next (answeredWrite s)) ∧
     (∀ i code, busAccessOf i = some (.command, .write code) → exec i s = .next (answeredWrite s)) ∧
     (∀ v, exec (.softReset v) s = .next (answeredWrite s)) ∧
     (∀ (i : Fin 16) (v : Byte), exec (.registerWrite (.param i) (.write v)) s =
       .next { s with bus := .answered none, port := { s.port with param := s.port.param.set i.val v } }) ∧
     s.registerByte .cmdStatus = 0x00#8 ∧ s.registerByte .control = 0x02#8 ∧
     (∀ p, plainRead p = true → exec (.registerWrite p .read) s =
       .next { s with bus := .answered (some (s.registerByte p)) }))

/-- A write of CONTROL with bit 0 set enters RESETTING: what every block does at that moment. -/
def Obligations.SoftResetEntryActsOnEveryBlock : Prop :=
  ∀ (v : Byte) (s : State), v.getLsbD 0 = true → TakesAccess s →
    ∃ u : State, exec (.softReset v) s = .next (State.finish (answeredWrite s) u) ∧
      u = { answeredWrite s with
        port := { s.port with result := Vector.replicate 8 0x00#8, lastResult := .ok, state := .resetting }
        streams := Vector.replicate 8 .closed
        pool := { slots := u.pool.slots, claims := Vector.replicate 9 none, grantPos := 8 }
        post := { entries := u.post.entries, servePos := 8 }
        engine := Engine.reset
        seq := { s.seq with banks := u.seq.banks, grantPos := 9, memory := u.seq.memory }
        startUp := u.startUp } ∧
      (∀ k : SlotId, u.bytesOf k = s.bytesOf k ∧
        ((∃ (b : BankId) (o : OwnerRecord), s.seq.banks[b].owner = some o ∧ o.op = .fetch ∧ o.slot = k) →
          u.pool.slots[k].owner = .discard) ∧
        ((∀ (b : BankId) (o : OwnerRecord), s.seq.banks[b].owner = some o → o.op = .fetch → o.slot ≠ k) →
          ((∃ e ∈ s.post.entries, e.slot = k ∧ e.state = .retiring) → u.pool.slots[k].owner = .post) ∧
          ((∀ e ∈ s.post.entries, e.slot = k → e.state ≠ .retiring) → u.pool.slots[k].owner = .free))) ∧
      u.post.entries = ((s.post.entries.filter fun e => e.state = .retiring).map fun e => { e with tag := false }) ∧
      (∀ b : BankId, u.seq.banks[b] = { s.seq.banks[b] with owner := (s.seq.banks[b].owner).map fun o =>
        if o.op = .fetch then { o with discard := true } else o }) ∧
      (s.seq.memory = .starting → u.seq.memory = .unstarted ∧ u.startUp = .none) ∧
      (s.seq.memory ≠ .starting → u.seq.memory = s.seq.memory ∧ u.startUp = s.startUp)

/-- RESETTING ends when no bank has an owner: the flags are cleared, the enables kept, the port IDLE, CLOSE ALL
called for, behind the bank steps that wait, or as it was called for before. At that moment, under the laws of slots and of RESETTING, all 48 slots are FREE. -/
def Obligations.ResettingEndsWhenNoBankIsOwned : Prop :=
  ∀ s : State, s.resetLow = false → s.port.state = .resetting →
    (SlotsHeld s → OperationsLawful s → ResettingQuiet s → (∀ b : BankId, s.seq.banks[b].owner = none) →
      s.pool.freeCount = 48) ∧
    ((∀ b : BankId, s.seq.banks[b].owner = none) →
      exec .resettingEnd s = .next (State.finish s { s with
        port := { s.port with state := .idle }
        streamFlags := Vector.replicate 8 StreamFlags.none
        events := { s.events with
          cmdDone := false, cmdRefused := false, portMisuse := false, renewalLate := false, syncDone := false }
        seq := { s.seq with resetCloseAll := some ((s.seq.resetCloseAll).getD s.seq.due.length) } })) ∧
    ((∃ b : BankId, s.seq.banks[b].owner ≠ none) → exec .resettingEnd s = .next s)

/-! ### Timers -/

/-- The linger timer's expiry posts the partly filled assembly; a timer with boundaries left does not expire (log
entry 2). -/
def Obligations.LingerExpiryPostsTheAssembly : Prop :=
  ∀ (n : StreamId) (w : WriteStream) (s : State), s.resetLow = false → s.streams[n] = .write w →
    (∀ a, w.lingerTimer = some 0 → w.assembly = some a →
      exec (.lingerExpiry n) s = .next (State.finish s (s.postAssembly n w a .opened (.blocked .postFull)))) ∧
    (w.lingerTimer ≠ some 0 → exec (.lingerExpiry n) s = .next s)

/-- The row age timer's expiry: CLOSE ROW becomes due for an OPEN bank with no owner; an owned bank keeps close due
for its release. The timer stops. -/
def Obligations.RowAgeExpiryClosesOrMarks : Prop :=
  ∀ (b : BankId) (s : State), s.resetLow = false → s.seq.banks[b].rowAge = some 0 →
    (s.seq.banks[b].owner = none → s.seq.banks[b].state = .opened → s.seq.hasDue b = false →
      exec (.rowAgeExpiry b) s = .next (State.finish s { s with seq := { s.seq with
        banks := s.seq.banks.set b.val { s.seq.banks[b] with rowAge := none }
        due := s.seq.due ++ [(b, .closeRow)] } })) ∧
    (∀ o, s.seq.banks[b].owner = some o →
      exec (.rowAgeExpiry b) s = .next { s with seq := { s.seq with
        banks := s.seq.banks.set b.val { s.seq.banks[b] with rowAge := none, closeDue := true } } })

/-- The interval timer's expiry: it starts again; the debt rises by 1, or stays 8 with RENEWAL_LATE set. A
renewal starts exactly when the debt is urgent with none in progress, or the six conditions of an
opportunistic one hold; no request is granted while the debt is urgent. -/
def Obligations.RenewalsAreOwedAndStart : Prop :=
  (∀ s : State, s.resetLow = false → s.renewal.interval = some 0 →
     (s.renewal.debt < 8 → exec .renewalIntervalExpiry s = .next (State.finish s { s with
       renewal := { s.renewal with debt := s.renewal.debt + 1, interval := some s.timing.renewalInterval } })) ∧
     (8 ≤ s.renewal.debt → exec .renewalIntervalExpiry s = .next (State.finish s { s with
       renewal := { s.renewal with interval := some s.timing.renewalInterval }
       events := { s.events with renewalLate := true } }))) ∧
  (∀ s : State,
     let quiet := s.seq.memory = .started ∧ 1 ≤ s.renewal.debt ∧ s.renewal.active = false ∧ s.seq.wide = .none ∧
       (∀ b : BankId, s.seq.banks[b].owner = none) ∧ ∀ p : Fin 10, s.requestAt p = none
     let urgent := s.seq.memory = .started ∧ 6 ≤ s.renewal.debt ∧ s.renewal.active = false
     (s.resetLow = false → quiet → exec .opportunisticRenewal s = .next (State.finish s
       { s with renewal := { s.renewal with active := true } })) ∧
     (s.resetLow = false → ¬ quiet → exec .opportunisticRenewal s = .next s) ∧
     (quiet ∨ urgent → renewalStart s = some { s with renewal := { s.renewal with active := true } }) ∧
     (¬ quiet → ¬ urgent → renewalStart s = none) ∧
     (settleStep s = none → ¬ urgent ∧ ¬ quiet) ∧
     (6 ≤ s.renewal.debt → requestGrant s = none))

/-! ### Steps on the memory pins -/

/-- The division of a byte address: byte, bank, line within the row, row. Two lines share bank and row exactly when
they agree in bits 23 to 12 and 5 to 4; the rows fitted bound the row. -/
def Obligations.AddressDivision : Prop :=
  ∀ a : Nat, a < 16777216 →
    offsetOf a = ((BitVec.ofNat 24 a).extractLsb' 0 4).toNat ∧
    (bankOf a).val = ((BitVec.ofNat 24 a).extractLsb' 4 2).toNat ∧
    lineInRow a = ((BitVec.ofNat 24 a).extractLsb' 6 6).toNat ∧
    rowOf a = ((BitVec.ofNat 24 a).extractLsb' 12 12).toNat ∧
    lineOf a = a - offsetOf a ∧ (bankOf (a + 16)).val = ((bankOf a).val + 1) % 4 ∧
    (∀ rows, rows = 1024 ∨ rows = 2048 ∨ rows = 4096 → a < rows * 4096 → rowOf a < rows) ∧
    ∀ c : Nat, c < 16777216 → ((bankOf a = bankOf c ∧ rowOf a = rowOf c) ↔
      ((BitVec.ofNat 24 a).extractLsb' 12 12 = (BitVec.ofNat 24 c).extractLsb' 12 12 ∧
        (BitVec.ofNat 24 a).extractLsb' 4 2 = (BitVec.ofNat 24 c).extractLsb' 4 2))

/-- The steps of one bank, issued from the head of those that wait for the pins: their pins and their effect in the
bank table. While a CLOSE ALL that became due before can go out they wait (R106; that the row then changes nothing
is the model's choice, log entry 2). -/
def Obligations.BankStepsDriveThePins : Prop :=
  (∀ (b : BankId) (i : Instr) (s : State), s.closeAllReady = true →
    i = .openRow b ∨ i = .closeRow b ∨ i = .readBurst b ∨ i = .writeBurst b → exec i s = .next s) ∧
  ∀ (b : BankId) (rest : List (BankId × BankStep)) (s : State), s.resetLow = false → s.closeAllReady = false →
    (∀ o, s.seq.due = (b, .openRow) :: rest → s.seq.banks[b].state = .closed → s.seq.memory = .started →
      s.seq.banks[b].owner = some o →
      exec (.openRow b) s = .next { s with
        seq := { s.seq with
          banks := s.seq.banks.set b.val { s.seq.banks[b] with
            state := .opening, openRow := some (rowOf o.line), left := s.timing.openSettle
            rowAge := some s.timing.rowAgeLimit, closeDue := false }
          due := rest, resetCloseAll := s.seq.resetCloseAll.map fun ahead => ahead - 1 }
        pins := { s.pins with command :=
          { msel := false, mstb1 := false, mstb0 := true, mrw := true, mbk := BitVec.ofNat 2 b.val
            ma := BitVec.ofNat 12 (rowOf o.line) } } }) ∧
    (s.seq.due = (b, .closeRow) :: rest → s.seq.banks[b].state = .opened →
      exec (.closeRow b) s = .next { s with
        seq := { s.seq with
          banks := s.seq.banks.set b.val { s.seq.banks[b] with
            state := .closing, openRow := none, left := s.timing.closeSettle, rowAge := none, closeDue := false }
          due := rest, resetCloseAll := s.seq.resetCloseAll.map fun ahead => ahead - 1 }
        pins := { s.pins with command :=
          { msel := false, mstb1 := false, mstb0 := true, mrw := false, mbk := BitVec.ofNat 2 b.val, ma := 0#12 } } }) ∧
    (∀ o more, s.seq.due = (b, .burst) :: rest → s.seq.banks[b].state = .opened →
      s.seq.banks[b].owner = some o → s.seq.banks[b].openRow = some (rowOf o.line) →
      s.seq.burstOrder = b :: more → s.seq.dataBus = some b →
      (o.op = .fetch →
        exec (.readBurst b) s = .next { s with
          seq := { s.seq with
            banks := s.seq.banks.set b.val { s.seq.banks[b] with
              state := .reading, left := s.timing.readLatency + 8 }
            due := rest, resetCloseAll := s.seq.resetCloseAll.map fun ahead => ahead - 1, burstOrder := more }
          pins := { s.pins with command :=
            { msel := false, mstb1 := true, mstb0 := false, mrw := true, mbk := BitVec.ofNat 2 b.val
              ma := BitVec.ofNat 12 (lineInRow o.line * 8) } } }) ∧
      (o.op = .store →
        exec (.writeBurst b) s = .next { s with
          seq := { s.seq with
            banks := s.seq.banks.set b.val { s.seq.banks[b] with state := .writing, left := 8 }
            due := rest, resetCloseAll := s.seq.resetCloseAll.map fun ahead => ahead - 1, burstOrder := more }
          pins :=
            { command :=
                { msel := false, mstb1 := true, mstb0 := false, mrw := false, mbk := BitVec.ofNat 2 b.val
                  ma := BitVec.ofNat 12 (lineInRow o.line * 8) }
              words := (List.finRange 8).map fun k =>
                { low := (s.bytesOf o.slot)[2 * k.val], high := (s.bytesOf o.slot)[2 * k.val + 1]
                  maskLow := !o.mask.getLsbD (2 * k.val), maskHigh := !o.mask.getLsbD (2 * k.val + 1) } } }))

/-- The memory-wide steps: when CLOSE ALL of start-up and of a renewal or soft reset, RENEW ALL, and LOAD OPTIONS
with the option word of R130 may be issued (R105, R106, R119, R128, R129, R134, R138), and what each does. A CLOSE
ALL of soft reset alone goes out when the bank steps due before it or with it have gone; a CLOSE ROW due after it
for a row that it closes then waits no longer. That a step that serves a renewal too, RENEW ALL and LOAD OPTIONS
wait until no bank step is due, and that such a CLOSE ROW is dropped, is the model's choice (log entry 17), and so is
that the row of a step that may not be issued changes nothing (log entry 2). -/
def Obligations.WideStepsDriveThePins : Prop :=
  (∀ s : State,
    (s.startCloseReady = true ↔ s.seq.memory = .starting ∧ s.startUp = .closeCalled) ∧
    (s.closeAllReady = true ↔
      (((s.renewal.active = true ∧ s.seq.memory = .started ∧ s.seq.wide = .none) ∧ s.seq.due = []) ∨
        (¬ (s.renewal.active = true ∧ s.seq.memory = .started ∧ s.seq.wide = .none) ∧
          ∃ ahead, s.seq.resetCloseAll = some ahead ∧ (ahead = 0 ∨ s.seq.due = []))) ∧
      (∀ b : BankId, s.seq.banks[b].state = .closed ∨
        (s.seq.banks[b].state = .opened ∧ s.seq.banks[b].owner = none)) ∧
      (∃ b : BankId, s.seq.banks[b].state = .opened)) ∧
    (s.renewAllReady = true ↔
      (((∃ second, s.startUp = .renewCalled second) ∧ s.seq.memory = .starting) ∨
        (s.startUp = .none ∧ s.renewal.active = true ∧ s.seq.memory = .started)) ∧
      (∀ b : BankId, s.seq.banks[b].state = .closed ∧ s.seq.banks[b].owner = none) ∧ s.seq.wide = .none ∧
      s.seq.due = []) ∧
    (s.loadOptionsReady = true ↔ s.startUp = .loadCalled ∧ s.seq.memory = .starting ∧
      (∀ b : BankId, s.seq.banks[b].state = .closed) ∧ s.seq.wide = .none ∧ s.seq.due = []) ∧
    (s.startCloseReady = false → s.closeAllReady = false → exec .closeAll s = .next s) ∧
    (s.renewAllReady = false → exec .renewAll s = .next s) ∧
    (s.loadOptionsReady = false → exec .loadOptions s = .next s)) ∧
  ∀ s : State, s.resetLow = false →
    (s.startCloseReady = true →
      exec .closeAll s = .next { s with
        startUp := .closeSettling, startClose := some s.timing.closeSettle
        pins := { s.pins with command :=
          { msel := false, mstb1 := false, mstb0 := true, mrw := false, mbk := 0#2, ma := 0x800#12 } } }) ∧
    (s.startCloseReady = false → s.closeAllReady = true →
      ∃ t, exec .closeAll s = .next t ∧
        t = { s with
          seq := { s.seq with
            banks := t.seq.banks, resetCloseAll := none
            due := s.seq.due.filter fun d =>
              !(decide (d.2 = .closeRow) && decide (s.seq.banks[d.1].state = .opened)) }
          pins := { s.pins with command :=
            { msel := false, mstb1 := false, mstb0 := true, mrw := false, mbk := 0#2, ma := 0x800#12 } } } ∧
        ∀ b : BankId,
          (s.seq.banks[b].state = .opened → t.seq.banks[b] = { s.seq.banks[b] with
            state := .closing, openRow := none, left := s.timing.closeSettle, rowAge := none, closeDue := false }) ∧
          (s.seq.banks[b].state ≠ .opened → t.seq.banks[b] = s.seq.banks[b])) ∧
    (s.renewAllReady = true →
      ∃ t, exec .renewAll s = .next t ∧
        t = { s with
          seq := { s.seq with wide := .renewing, wideLeft := s.timing.renewDuration }, startUp := t.startUp
          pins := { s.pins with command :=
            { msel := false, mstb1 := false, mstb0 := false, mrw := true, mbk := 0#2, ma := 0#12 } } } ∧
        (∀ second, s.startUp = .renewCalled second → t.startUp = .renewRunning second) ∧
        (s.startUp = .none → t.startUp = .none)) ∧
    (s.loadOptionsReady = true → s.timing.readLatency = 2 ∨ s.timing.readLatency = 3 →
      ∃ t, exec .loadOptions s = .next t ∧
        t = { s with
          seq := { s.seq with wide := .loading, wideLeft := s.timing.optionLoad }, startUp := .loadRunning
          pins := { s.pins with command :=
            { msel := false, mstb1 := false, mstb0 := false, mrw := false, mbk := 0#2, ma := t.pins.command.ma } } } ∧
        (t.pins.command.ma.extractLsb' 0 2).toNat = s.timing.readLatency ∧
        t.pins.command.ma.getLsbD 2 = false ∧ (t.pins.command.ma.extractLsb' 3 3).toNat = 3 ∧
        (t.pins.command.ma.extractLsb' 6 6).toNat = 0)

/-! ### The ends of intervals -/

/-- The ends of the settles, of write data and of a renewal. The release of a bank's owner: the bank is OPEN with
no owner, and CLOSE ROW is due if close due was set or the row policy is CLOSE_AFTER. -/
def Obligations.IntervalEndsMoveTheBanks : Prop :=
  (∀ (b : BankId) (s : State), s.resetLow = false →
     (s.seq.banks[b].state = .opening →
       ∃ u, exec (.openSettleEnd b) s = .next (State.finish s u) ∧
         u = { s with
           seq := { s.seq with
             banks := s.seq.banks.set b.val { s.seq.banks[b] with state := .opened, left := 0 }
             burstOrder := u.seq.burstOrder }
           pins := { s.pins with command := CommandPins.idle } } ∧
         (∀ o, s.seq.banks[b].owner = some o → b ∉ s.seq.burstOrder → u.seq.burstOrder = s.seq.burstOrder ++ [b]) ∧
         (s.seq.banks[b].owner = none → u.seq.burstOrder = s.seq.burstOrder)) ∧
     (s.seq.banks[b].state = .closing →
       ∃ u, exec (.closeSettleEnd (.bank b)) s = .next (State.finish s u) ∧
         u = { s with
           seq := { s.seq with
             banks := s.seq.banks.set b.val { s.seq.banks[b] with state := .closed, left := 0 }, due := u.seq.due }
           pins := { s.pins with command := CommandPins.idle } } ∧
         (∀ o, s.seq.banks[b].owner = some o → s.seq.hasDue b = false →
           u.seq.due = s.seq.due ++ [(b, .openRow)]) ∧
         (s.seq.banks[b].owner = none → u.seq.due = s.seq.due)) ∧
     (s.seq.banks[b].state = .writing →
       exec (.writeDataEnd b) s = .next (State.finish s { s with
         seq := { s.seq with
           banks := s.seq.banks.set b.val { s.seq.banks[b] with
             state := .recovering, left := s.timing.writeRecovery }
           dataBus := none }
         pins := { command := CommandPins.idle, words := [] } })) ∧
     (s.seq.wide = .renewing → s.renewal.active = true → s.startUp = .none →
       exec .renewalComplete s = .next (State.finish s { s with
         seq := { s.seq with wide := .none, wideLeft := 0 }
         renewal := { s.renewal with debt := s.renewal.debt - 1, active := false }
         pins := { s.pins with command := CommandPins.idle } }))) ∧
  (∀ (b : BankId) (s : State), s.seq.hasDue b = false →
     (s.seq.banks[b].closeDue = true ∨ s.timing.rowPolicy = .closeAfter →
       s.releaseBank b = { s with seq := { s.seq with
         banks := s.seq.banks.set b.val
           { s.seq.banks[b] with state := .opened, owner := none, left := 0, closeDue := false }
         due := s.seq.due ++ [(b, .closeRow)] } }) ∧
     (s.seq.banks[b].closeDue = false → s.timing.rowPolicy = .keepOpen →
       s.releaseBank b = { s with seq := { s.seq with
         banks := s.seq.banks.set b.val
           { s.seq.banks[b] with state := .opened, owner := none, left := 0, closeDue := false } } }))

/-- A fetch return: the line merged with the WAITING entry for it is handed on, or dropped under the discard mark;
the data bus is freed and the owner released. The model's choices: the line is taken from the memory at the return
(log entry 18), the command pins carry IDLE at it (log entry 19), and a line that does not exist faults (log entry
12). -/
def Obligations.FetchReturnHandsTheMergedLineOn : Prop :=
  ∀ (b : BankId) (o : OwnerRecord) (s : State), s.resetLow = false → s.seq.banks[b].state = .reading →
    s.seq.banks[b].owner = some o → o.op = .fetch →
    (s.timing.rowsFitted * 4096 ≤ o.line → exec (.fetchReturn b) s = .fault (.beyondFittedSize o.line)) ∧
    (o.line < s.timing.rowsFitted * 4096 →
      (∀ u, u = State.releaseBank { s.takeReturn o with seq := { (s.takeReturn o).seq with dataBus := none } } b →
        exec (.fetchReturn b) s =
          .next (State.finish s { u with pins := { u.pins with command := CommandPins.idle } })) ∧
      (o.discard = true → s.takeReturn o = s.setSlot o.slot { s.pool.slots[o.slot] with owner := .free }) ∧
      ∀ l : Line,
        (∀ k : Fin 16, l[k] = match s.post.waitingFor o.line with
          | some e => if e.mask.getLsbD k.val then (s.bytesOf e.slot)[k] else Memory.read s.memory (o.line + k.val)
          | none => Memory.read s.memory (o.line + k.val)) →
        (∀ (n : StreamId) (r filled : ReadStream) (u : State), o.discard = false → o.position.val = n.val →
          s.streams[n] = .read r →
          filled = { r with queue := r.queue.map fun e =>
            if e.slot = o.slot ∧ e.state = .inFlight then { e with state := .filled } else e } →
          u = (s.setSlot o.slot { s.pool.slots[o.slot] with bytes := l }).setStream n (.read filled) →
          (s.bus.waitingRead n = false ∨ filled.ready = false → s.takeReturn o = u) ∧
          (s.bus.waitingRead n = true → filled.ready = true → s.takeReturn o = u.deliver n filled)) ∧
        (o.discard = false → o.position.val = 9 →
          ∃ t, s.takeReturn o = t ∧
            t = { s.setSlot o.slot { s.pool.slots[o.slot] with bytes := l } with
              engine := { s.engine with buffers := t.engine.buffers } } ∧
            ∀ k : Fin 2, t.engine.buffers[k] = (s.engine.buffers[k]).map fun x =>
              if x.slot = o.slot ∧ x.state = .inFlight then { x with state := .filled } else x))

/-- A store's completion: the marked bytes and no others are in memory, the entry leaves with its slot released,
SYNC_DONE is set for the last tagged entry, the owner is released. The model's choices: the memory changes at the
completion (log entry 18), the command pins carry IDLE at it (log entry 19), and a line that does not exist faults
(log entry 12). -/
def Obligations.StoreCompletionWritesAndRemoves : Prop :=
  ∀ (b : BankId) (o : OwnerRecord) (s : State), s.resetLow = false → s.seq.banks[b].state = .recovering →
    s.seq.banks[b].owner = some o → o.op = .store → MemoryCanonical s →
    (s.timing.rowsFitted * 4096 ≤ o.line → exec (.storeComplete b) s = .fault (.beyondFittedSize o.line)) ∧
    (o.line < s.timing.rowsFitted * 4096 →
      ∃ (m : Memory) (u v : State), exec (.storeComplete b) s = .next (State.finish s v) ∧
        v = { u.releaseBank b with pins := { (u.releaseBank b).pins with command := CommandPins.idle } } ∧
        MemoryCanonical u ∧
        u = { s.setSlot o.slot { s.pool.slots[o.slot] with owner := .free } with
          memory := m
          post := { s.post with
            entries := s.post.entries.filter fun e => !decide (e.slot = o.slot ∧ e.state = .retiring) }
          events := { s.events with syncDone := s.events.syncDone ||
            ((s.post.entries.any fun e => decide (e.slot = o.slot ∧ e.state = .retiring) && e.tag) &&
              !((s.post.entries.filter fun e => !decide (e.slot = o.slot ∧ e.state = .retiring)).any fun e => e.tag)) } } ∧
        (∀ k : Fin 16, Memory.read m (o.line + k.val) =
          if o.mask.getLsbD k.val then (s.bytesOf o.slot)[k] else Memory.read s.memory (o.line + k.val)) ∧
        ∀ a, a < o.line ∨ o.line + 16 ≤ a → Memory.read m a = Memory.read s.memory a)

/-! ### Grants -/

/-- The Sequencer's grants. What request stands at each position, and when it is eligible; with none eligible
nothing is granted; the Post Queue's eligible request with the priority indication is granted before any
other, and else the first eligible one after the grant position, which the bank and the requester take in
the same event. -/
def Obligations.RequestGrantChoosesAndSetsOut : Prop :=
  ∀ s : State, s.resetLow = false →
    (∀ q, s.eligible q = true ↔ s.seq.banks[bankOf q.line].owner = none ∧ s.seq.memory = .started ∧
      s.renewal.debt < 6 ∧ s.renewal.active = false ∧ s.seq.wide = .none) ∧
    (∀ (n : StreamId) (p : Fin 10), p.val = n.val →
      (∀ r, s.streams[n] = .read r → s.requestAt p = (r.queue.find? fun e => e.state = .requested).map fun e =>
        { op := .fetch, line := e.line, slot := e.slot, mask := 0#16, priority := false }) ∧
      ((∀ r, s.streams[n] ≠ .read r) → s.requestAt p = none)) ∧
    s.requestAt 8 = ((s.post.entries.find? fun e => e.state = .waiting).map fun e =>
      { op := .store, line := e.line, slot := e.slot, mask := e.mask
        priority := decide (16 ≤ s.post.entries.length) }) ∧
    ((∀ (k : Fin 2) (x : SourceBuffer), s.engine.buffers[k] = some x → x.state ≠ .requested) →
      s.requestAt 9 = none) ∧
    (∀ (k : Fin 2) (x : SourceBuffer) (line : Nat), s.engine.buffers[k] = some x → x.state = .requested →
      x.line = some line →
      (∀ (m : Fin 2) (y : SourceBuffer), m < k → s.engine.buffers[m] = some y → y.state ≠ .requested) →
      s.requestAt 9 = some { op := .fetch, line := line, slot := x.slot, mask := 0#16, priority := false }) ∧
    ((∀ p q, s.requestAt p = some q → s.eligible q = false) → exec .requestGrant s = .next s) ∧
    (∀ q, s.requestAt 8 = some q → q.priority = true → s.eligible q = true →
      ∃ u, exec .requestGrant s = .next (State.finish s u) ∧ RequestGranted s 8 q u) ∧
    (∀ p q, s.requestAt p = some q → s.eligible q = true →
      (∀ q8, s.requestAt 8 = some q8 → s.eligible q8 = true → q8.priority = false) →
      (∀ p' q', (p'.val + 10 - (s.seq.grantPos.val + 1)) % 10 < (p.val + 10 - (s.seq.grantPos.val + 1)) % 10 →
        s.requestAt p' = some q' → s.eligible q' = false) →
      ∃ u, exec .requestGrant s = .next (State.finish s u) ∧ RequestGranted s p q u)

/-- The claims and the grants of the pool. What each claimant claims, and that the claim list follows it; the
first essential claim after the grant position is granted while a slot is FREE, and else, with no essential
claim waiting, the first read-ahead claim while more than 10 are; what each purpose makes of the slot.
Which FREE slot is taken is the model's choice (log entry 10), and so is that a cancelled job's waiting
claim stays (log entry 27). -/
def Obligations.SlotGrantChoosesByClassAndTurn : Prop :=
  ∀ s : State, s.resetLow = false →
    (s.pool.freeCount = 0 ∨ (∀ c : Fin 9, s.pool.claims[c] = none) ∨
        (s.pool.freeCount ≤ 10 ∧ ∀ (c : Fin 9) (x : Claim), s.pool.claims[c] = some x → x.cls = .readAhead) →
      exec .slotGrant s = .next s) ∧
    (∀ (c : Fin 9) (x : Claim) (k : SlotId), s.pool.claims[c] = some x → s.pool.slots[k].owner = .free →
      (∀ m : SlotId, m < k → s.pool.slots[m].owner ≠ .free) →
      (x.cls = .essential ∧
          (∀ (c' : Fin 9) (x' : Claim),
            (c'.val + 9 - (s.pool.grantPos.val + 1)) % 9 < (c.val + 9 - (s.pool.grantPos.val + 1)) % 9 →
            s.pool.claims[c'] = some x' → x'.cls = .readAhead) ∨
        x.cls = .readAhead ∧ 11 ≤ s.pool.freeCount ∧
          (∀ (c' : Fin 9) (x' : Claim), s.pool.claims[c'] = some x' → x'.cls = .readAhead) ∧
          ∀ c' : Fin 9,
            (c'.val + 9 - (s.pool.grantPos.val + 1)) % 9 < (c.val + 9 - (s.pool.grantPos.val + 1)) % 9 →
            s.pool.claims[c'] = none) →
      exec .slotGrant s = .next (State.finish s ((s.withPool { s.pool with
        claims := s.pool.claims.set c.val none, grantPos := c }).takeSlot c x k))) ∧
    (∀ (n : StreamId) (r : ReadStream) (cls : ClaimClass) (k : SlotId), s.streams[n] = .read r →
      r.fetchNeed = true →
      s.takeSlot (n.castLE (by decide)) { cls := cls, purpose := .read } k =
        (s.setSlot k { s.pool.slots[k] with owner := .read n }).setStream n (.read { r with
          queue := r.queue ++ [{ slot := k, line := r.fetchCursor, state := .requested }]
          fetchCursor := if r.window.endPolicy = .wrap ∧ r.fetchCursor = lineOf r.window.last
            then lineOf r.window.first else r.fetchCursor + 16 })) ∧
    (∀ (n : StreamId) (w opened : WriteStream) (made : Assembly) (cls : ClaimClass) (k : SlotId) (t : State),
      s.streams[n] = .write w → w.state = .blocked .noSlot →
      made = { slot := k, line := lineOf w.cursor, mask := 0#16, frozen := false } →
      opened = { w with assembly := some made, state := .opened } →
      t = (s.setSlot k { s.pool.slots[k] with owner := .assembly n }).setStream n (.write opened) →
      ((∀ v left, s.bus ≠ .stretched n (.write v) left) →
        s.takeSlot (n.castLE (by decide)) { cls := cls, purpose := .assembly } k = t) ∧
      ∀ v left, s.bus = .stretched n (.write v) left →
        s.takeSlot (n.castLE (by decide)) { cls := cls, purpose := .assembly } k =
          (t.placeByte n opened made v).withBus (.answered none)) ∧
    (∀ (cls : ClaimClass) (k : SlotId),
      ∃ t, s.takeSlot 8 { cls := cls, purpose := .jobSource 0 } k = t ∧
        t = { s.setSlot k { s.pool.slots[k] with owner := .jobSource 0 } with
          engine := { s.engine with
            buffers := s.engine.buffers.set 0 (some { slot := k, line := none, state := .empty }) } }) ∧
    (∀ (cls : ClaimClass) (k : SlotId) (j : ActiveJob), s.engine.state = .acquiring j →
      ∃ t d, s.takeSlot 8 { cls := cls, purpose := .jobSource 1 } k = t ∧
        t = { s.setSlot k { s.pool.slots[k] with owner := .jobSource 1 } with
          engine := { s.engine with
            buffers := s.engine.buffers.set 1 (some { slot := k, line := none, state := .empty })
            state := .running { j with direction := d } } } ∧
        (∀ a b, j.job.work = .copy a b →
          (a < b ∧ b < a + j.job.length → d = some .descending) ∧
          (¬ (a < b ∧ b < a + j.job.length) → d = some .ascending)) ∧
        ((∀ a b, j.job.work ≠ .copy a b) → d = j.direction)) ∧
    (∀ (cls : ClaimClass) (k : SlotId) (j : ActiveJob) (c : Chunk), s.engine.state = .running j →
      j.destChunk = some c →
      s.takeSlot 8 { cls := cls, purpose := .jobDest } k =
        { s.setSlot k { s.pool.slots[k] with owner := .jobDest } with
          engine := { s.engine with
            dest := some { slot := k, line := lineOf c.lo, mask := 0#16, held := false } } }) ∧
    ((∀ c : Fin 9, s.pool.claims[c] = s.claimOf c) → syncClaims s = none) ∧
    (∀ c : Fin 9, s.pool.claims[c] ≠ s.claimOf c →
      ∃ claims : Vector (Option Claim) 9,
        syncClaims s = some (s.withPool { s.pool with claims := claims }) ∧ ∀ d : Fin 9, claims[d] = s.claimOf d) ∧
    (∀ (n : StreamId) (c : Fin 9), c.val = n.val →
      (s.streams[n] = .closed → s.claimOf c = none) ∧
      (∀ r, s.streams[n] = .read r →
        let need := r.ended = false ∧ r.queue.length < r.depth ∧ (∀ e ∈ r.queue, e.state ≠ .requested) ∧
          (r.window.endPolicy = .wrap ∨ r.fetchCursor ≤ lineOf r.window.last)
        (¬ need → s.claimOf c = none) ∧
        (need → r.queue = [] → s.claimOf c = some { cls := .essential, purpose := .read }) ∧
        (need → r.queue ≠ [] → s.claimOf c = some { cls := .readAhead, purpose := .read })) ∧
      (∀ w, s.streams[n] = .write w →
        (w.state = .blocked .noSlot → s.claimOf c = some { cls := .essential, purpose := .assembly }) ∧
        (w.state ≠ .blocked .noSlot → s.claimOf c = none))) ∧
    (s.engine.state = .idle ∨ (∃ r, s.engine.state = .completing r) → s.claimOf 8 = none) ∧
    (∀ j, s.engine.state = .acquiring j →
      (j.cancel = true ∨ j.outcome ≠ none → s.claimOf 8 = none) ∧
      (j.cancel = false → j.outcome = none →
        (s.engine.buffers[(0 : Fin 2)] = none → s.claimOf 8 = some { cls := .essential, purpose := .jobSource 0 }) ∧
        (∀ x, s.engine.buffers[(0 : Fin 2)] = some x → s.engine.buffers[(1 : Fin 2)] = none →
          s.claimOf 8 = some { cls := .essential, purpose := .jobSource 1 }))) ∧
    (∀ j, s.engine.state = .running j →
      (j.outcome ≠ none → s.claimOf 8 = none) ∧
      (j.cancel = true → j.outcome = none → s.claimOf 8 = s.pool.claims[(8 : Fin 9)]) ∧
      (j.cancel = false → j.outcome = none →
        (s.engine.dest = none → (∃ a b, j.job.work = .copy a b) ∨ (∃ a v, j.job.work = .fill a v) →
          s.claimOf 8 = some { cls := .essential, purpose := .jobDest }) ∧
        ((∃ d, s.engine.dest = some d) ∨ (∃ a p m c, j.job.work = .scan a p m c) ∨ (∃ a b, j.job.work = .compare a b) →
          s.claimOf 8 = none)))

/-- The first held post after the serve position that can be taken is taken; one that cannot is passed over. A
stream BLOCKED with reason POST_FULL becomes OPEN, or claims a slot for the byte that waits; a DRAINING or
ENDED stream keeps its state; the Move Engine's chunk ends. A DRAINING stream's post taken, its command makes
its effect from its own copy of the parameters and completes. -/
def Obligations.HeldPostsAndDrainsComplete : Prop :=
  ∀ s : State, s.resetLow = false →
    (∀ (n : StreamId) (w : WriteStream) (a : Assembly) (x : WriteState) (t : State), s.streams[n] = .write w →
      w.assembly = some a → a.frozen = true → s.acceptPost a.line a.mask a.slot = some t →
      (w.state = .blocked .postFull ∧
          ((s.bus.waitingWrite n = none ∧ x = .opened) ∨ (s.bus.waitingWrite n ≠ none ∧ x = .blocked .noSlot)) ∨
        (w.state = .draining ∨ w.state = .ended) ∧ x = w.state) →
      (∀ (o : Fin 9) (p : HeldPost),
        (o.val + 9 - (s.post.servePos.val + 1)) % 9 < (n.val + 9 - (s.post.servePos.val + 1)) % 9 →
        s.heldAt o = some p → s.acceptPost p.line p.mask p.slot = none) →
      exec .heldPostAcceptance s = .next (State.finish s
        ((t.withPost { t.post with servePos := n.castLE (by decide) }).setStream n
          (.write { w with lingerTimer := none, assembly := none, state := x })))) ∧
    (∀ (d : DestLine) (t : State), s.engine.dest = some d → d.held = true →
      s.acceptPost d.line d.mask d.slot = some t →
      (∀ (o : Fin 9) (p : HeldPost),
        (o.val + 9 - (s.post.servePos.val + 1)) % 9 < (8 + 9 - (s.post.servePos.val + 1)) % 9 →
        s.heldAt o = some p → s.acceptPost p.line p.mask p.slot = none) →
      exec .heldPostAcceptance s = .next (State.finish s
        ((t.withPost { t.post with servePos := 8 }).endChunk
          ((List.range 16).filter fun i => d.mask.getLsbD i).length))) ∧
    ((∀ (o : Fin 9) (p : HeldPost), s.heldAt o = some p → s.acceptPost p.line p.mask p.slot = none) →
      exec .heldPostAcceptance s = .next s) ∧
    (∀ (o : Fin 9) (p : HeldPost), s.heldAt o = some p ↔
      (∃ (n : StreamId) (w : WriteStream) (a : Assembly), o.val = n.val ∧ s.streams[n] = .write w ∧
        w.assembly = some a ∧ a.frozen = true ∧ p = { line := a.line, mask := a.mask, slot := a.slot }) ∨
      (o.val = 8 ∧ ∃ d, s.engine.dest = some d ∧ d.held = true ∧
        p = { line := d.line, mask := d.mask, slot := d.slot })) ∧
    (∀ (n : StreamId) (w : WriteStream) (c : InProgress), s.port.state = .executing c →
      c.params[0].toNat = n.val → s.streams[n] = .write w → w.state = .draining → w.assembly = none →
      (c.command = .flush → exec .drainComplete s = .next (State.finish s
        (completedWith (s.setStream n (.write (emptiedStream w))) .ok))) ∧
      (c.command = .seek → exec .drainComplete s = .next (State.finish s (completedWith
        (s.setStream n (.write { emptiedStream w with cursor := Params.addressAt c.params 1 })) .ok))) ∧
      (c.command = .close → exec .drainComplete s = .next (State.finish s
        (completedWith (s.setStream n .closed) .ok))))

/-! ### The Move Engine's rows -/

/-- A job starts when the engine is IDLE and ends when it is decided or cancelled with nothing in flight and no
post held; its record joins the completion queue or waits in COMPLETING. -/
def Obligations.JobsStartAndEnd : Prop :=
  ∀ s : State, s.resetLow = false →
    (∀ j rest, s.engine.state = .idle → s.engine.jobs = j :: rest →
      ((∃ a v, j.work = .fill a v) → exec .jobStart s = .next (State.finish s { s with
        engine := { s.engine with
          jobs := rest
          state := .running { job := j, direction := none, progress := 0, cancel := false, outcome := none } } })) ∧
      ((∀ a v, j.work ≠ .fill a v) → exec .jobStart s = .next (State.finish s { s with
        engine := { s.engine with
          jobs := rest
          state := .acquiring { job := j, direction := none, progress := 0, cancel := false, outcome := none } } }))) ∧
    (s.engine.state ≠ .idle ∨ s.engine.jobs = [] → exec .jobStart s = .next s) ∧
    (∀ j, s.engine.state = .acquiring j ∨ s.engine.state = .running j →
      j.cancel = true ∨ j.outcome ≠ none →
      (∀ (k : Fin 2) (x : SourceBuffer), s.engine.buffers[k] = some x → x.state ≠ .inFlight) →
      (∀ d, s.engine.dest = some d → d.held = false) →
      ∃ (u : State) (r : CompletionRecord), exec .jobEnd s = .next (State.finish s u) ∧
        r.tag = j.job.tag ∧ r.kind = j.job.work.kind ∧
        (∀ o v, j.outcome = some (o, v) → r.outcome = o ∧ r.value = v) ∧
        (j.outcome = none → r.outcome = .cancelled ∧ r.value = j.progress) ∧
        u = { s with pool := u.pool, engine := u.engine } ∧
        u.pool.claims = s.pool.claims.set 8 none ∧ u.pool.grantPos = s.pool.grantPos ∧
        (∀ (k : Fin 2) (x : SourceBuffer), s.engine.buffers[k] = some x → u.pool.slots[x.slot].owner = .free) ∧
        (∀ d, s.engine.dest = some d → u.pool.slots[d.slot].owner = .free) ∧
        (∀ k : SlotId, u.bytesOf k = s.bytesOf k ∧
          ((∀ (m : Fin 2) (x : SourceBuffer), s.engine.buffers[m] = some x → x.slot ≠ k) →
            (∀ d, s.engine.dest = some d → d.slot ≠ k) → u.pool.slots[k] = s.pool.slots[k])) ∧
        (s.engine.completions.length < 4 → u.engine = { s.engine with
          state := .idle, buffers := Vector.replicate 2 none, dest := none
          completions := s.engine.completions ++ [r] }) ∧
        (4 ≤ s.engine.completions.length → u.engine = { s.engine with
          state := .completing r, buffers := Vector.replicate 2 none, dest := none })) ∧
    (s.engine.state = .idle → exec .jobEnd s = .next s)

/-- A FILL or COPY chunk builds its destination line when its slot is held and its source lines are FILLED: the
chunk's bytes and no others are written and marked, and the line is posted. A post accepted ends the chunk:
progress rises by its bytes, and the last chunk decides COMPLETE with value 0, unless the job is cancelled. -/
def Obligations.DestinationLineIsBuiltAndPosted : Prop :=
  (∀ (s : State) (j : ActiveJob) (d : DestLine), s.resetLow = false → s.engine.state = .running j →
    j.outcome = none → j.cancel = false → s.engine.dest = some d → d.held = false →
    ∀ first size : Nat, ∀ source : Nat → Byte,
      ((∃ a v, j.job.work = .fill a v ∧ first = a + j.progress ∧
          size = min (16 - first % 16) (j.job.length - j.progress) ∧ ∀ x, source x = v) ∨
        (∃ a b, j.job.work = .copy a b ∧ j.direction = some .ascending ∧ first = b + j.progress ∧
          size = min (16 - first % 16) (j.job.length - j.progress) ∧
          ∀ x, first ≤ x → x < first + size →
            ∃ k, s.engine.slotOfLine (lineOf (x + a - b)) = some k ∧ source x = Line.at (s.bytesOf k) (x + a - b)) ∨
        (∃ a b top, j.job.work = .copy a b ∧ j.direction = some .descending ∧
          top = b + j.job.length - j.progress ∧ first = max b (lineOf (top - 1)) ∧ size = top - first ∧
          ∀ x, first ≤ x → x < first + size →
            ∃ k, s.engine.slotOfLine (lineOf (x + a - b)) = some k ∧ source x = Line.at (s.bytesOf k) (x + a - b))) →
      j.progress < j.job.length →
      ∃ (built : Line) (mask : ByteMask),
        (∀ k : Fin 16, mask.getLsbD k.val =
          decide (first ≤ lineOf first + k.val ∧ lineOf first + k.val < first + size)) ∧
        (∀ k : Fin 16, built[k] = (if mask.getLsbD k.val then source (lineOf first + k.val) else (s.bytesOf d.slot)[k])) ∧
        (∀ t, (s.fillSlot d.slot built).acceptPost (lineOf first) mask d.slot = some t →
          exec .destinationLineBuild s = .next (State.finish s (t.endChunk size))) ∧
        ((s.fillSlot d.slot built).acceptPost (lineOf first) mask d.slot = none →
          exec .destinationLineBuild s = .next (State.finish s { s.fillSlot d.slot built with
            engine := { s.engine with
              dest := some { slot := d.slot, line := lineOf first, mask := mask, held := true } } }))) ∧
  (∀ (t : State) (j : ActiveJob) (n : Nat), t.engine.state = .running j →
    (j.progress + n = j.job.length → j.cancel = false →
      ∃ u, t.endChunk n = u ∧
        u = { t with engine := { t.engine with
          dest := none, buffers := u.engine.buffers
          state := .running { j with progress := j.job.length, outcome := some (.complete, 0) } } } ∧
        ∀ k : Fin 2, u.engine.buffers[k] = (t.engine.buffers[k]).map fun x =>
          if x.state = .requested then { x with line := none, state := .empty } else x) ∧
    (j.progress + n ≠ j.job.length ∨ j.cancel = true →
      t.endChunk n = { t with engine := { t.engine with
        dest := none, state := .running { j with progress := j.progress + n } } }))

/-- SCAN examines the bytes of a line in ascending order and stops at the first that satisfies its condition;
COMPARE compares the bytes of a chunk and stops at the first difference. The source lines that COPY, SCAN and
COMPARE ask for, each into which buffer and when. That among an event's consequences a line is examined only
once no request of the engine can be granted (the clauses on examineInTurn) is the model's choice (log entry 8),
read from the second worked example of 08. -/
def Obligations.ScanAndCompareDecide : Prop :=
  (∀ (s : State) (j : ActiveJob), s.resetLow = false → s.engine.state = .running j → j.outcome = none →
    j.cancel = false → j.progress < j.job.length →
    (∀ a pattern mask stop k, j.job.work = .scan a pattern mask stop →
      s.engine.slotOfLine (lineOf (a + j.progress)) = some k →
      let size := min (16 - (a + j.progress) % 16) (j.job.length - j.progress)
      let matching := fun x => Line.at (s.bytesOf k) (a + x) &&& mask = pattern &&& mask
      let hit := fun x => (stop = .onMatch ∧ matching x) ∨ (stop = .onMismatch ∧ ¬ matching x)
      (∀ x, j.progress ≤ x → x < j.progress + size → hit x →
        (∀ y, j.progress ≤ y → y < x → ¬ hit y) →
        exec .scanExamination s = .next (State.finish s { s with
          engine := Engine.withdrawRequest { s.engine with
            state := .running { j with outcome := some (.found, x) } } })) ∧
      ((∀ x, j.progress ≤ x → x < j.progress + size → ¬ hit x) →
        (j.progress + size = j.job.length →
          exec .scanExamination s = .next (State.finish s { s with
            engine := Engine.withdrawRequest { s.engine with
              state := .running { j with progress := j.job.length, outcome := some (.notFound, 0) } } })) ∧
        (j.progress + size ≠ j.job.length →
          exec .scanExamination s = .next (State.finish s { s with
            engine := { s.engine with state := .running { j with progress := j.progress + size } } })))) ∧
    (∀ a b x y, j.job.work = .compare a b →
      s.engine.buffers[0] = some { slot := x, line := some (lineOf (a + j.progress)), state := .filled } →
      s.engine.buffers[1] = some { slot := y, line := some (lineOf (b + j.progress)), state := .filled } →
      let size := min (min (16 - (a + j.progress) % 16) (16 - (b + j.progress) % 16)) (j.job.length - j.progress)
      let same := fun i => Line.at (s.bytesOf x) (a + i) = Line.at (s.bytesOf y) (b + i)
      (∀ i, j.progress ≤ i → i < j.progress + size → ¬ same i → (∀ k, j.progress ≤ k → k < i → same k) →
        exec .compareChunk s = .next (State.finish s { s with
          engine := Engine.withdrawRequest { s.engine with
            state := .running { j with outcome := some (.different, i) } } })) ∧
      ((∀ i, j.progress ≤ i → i < j.progress + size → same i) →
        (j.progress + size = j.job.length →
          exec .compareChunk s = .next (State.finish s { s with
            engine := Engine.withdrawRequest { s.engine with
              state := .running { j with progress := j.job.length, outcome := some (.equal, 0) } } })) ∧
        (j.progress + size ≠ j.job.length →
          exec .compareChunk s = .next (State.finish s { s with
            engine := { s.engine with state := .running { j with progress := j.progress + size } } }))))) ∧
  (∀ (e : Engine), ∃ bs : Vector (Option SourceBuffer) 2, e.withdrawRequest = { e with buffers := bs } ∧
    ∀ k : Fin 2, bs[k] = (e.buffers[k]).map fun x =>
      if x.state = .requested then { x with line := none, state := .empty } else x) ∧
  (∀ s : State, examineInTurn s = none ∨ examineInTurn s = scanExamination s) ∧
  (∀ (s : State) (q : Request), s.requestAt 9 = some q → s.eligible q = true → examineInTurn s = none) ∧
  (∀ s : State, (∀ q, s.requestAt 9 = some q → s.eligible q = false) → examineInTurn s = scanExamination s) ∧
  (∀ s : State,
    (∀ j, s.engine.state ≠ .running j) ∨
      (∃ (k : Fin 2) (x : SourceBuffer), s.engine.buffers[k] = some x ∧ x.state = .requested) ∨
      (∃ j, s.engine.state = .running j ∧ (j.outcome ≠ none ∨ j.cancel = true)) →
    engineRequest s = none) ∧
  ∀ (s : State) (j : ActiveJob), s.engine.state = .running j →
    j.outcome = none → j.cancel = false → j.progress < j.job.length →
    (∀ a b, j.job.work = .copy a b → j.direction ≠ none) →
    (∀ (m : Fin 2) (y : SourceBuffer), s.engine.buffers[m] = some y → y.state ≠ .requested) →
    ((∀ k line, ¬ SourceLineFor s.engine j k line) → engineRequest s = none) ∧
    ∀ (k : Fin 2) (x : SourceBuffer) (line : Nat), SourceLineFor s.engine j k line → s.engine.buffers[k] = some x →
      engineRequest s = some { s with engine := { s.engine with
        buffers := s.engine.buffers.set k.val (some { x with line := some line, state := .requested }) } }

/-! ### Pool, coherence -/

/-- The free count with the slots of every other owner kind is 48, and under the laws of slots each kind's slots are
those that its holders hold: read-ahead entries, assemblies, posts, source buffers, the destination line,
discarded fetches. A grant lowers the free count by one, a release raises it by one, a transfer leaves it; after a
pin reset it is 48. -/
def Obligations.FreeCountAccountsForEverySlot : Prop :=
  State.reset.pool.freeCount = 48 ∧
  (∀ s t : State, s.resetLow = true → exec .pinResetRelease s = .next t → t.pool.freeCount = 48) ∧
  ∀ s : State,
    (let held := fun f : Owner → Bool => ((List.finRange 48).filter fun k => f s.pool.slots[k].owner).length
     s.pool.freeCount + held (fun o => match o with | .read _ => true | _ => false) +
       held (fun o => match o with | .assembly _ => true | _ => false) + held (fun o => o == .post) +
       held (fun o => match o with | .jobSource _ => true | .jobDest => true | _ => false) +
       held (fun o => o == .discard) = 48) ∧
    (SlotsLawful s → SlotsHeld s →
      let owned := fun o : Owner => ((List.finRange 48).filter fun k => s.pool.slots[k].owner = o).length
      let ofStream := fun n : StreamId => match s.streams[n] with
        | .read r => r.queue.length
        | .write w => if w.assembly.isSome then 1 else 0
        | .closed => 0
      let ofBuffer := fun k : Fin 2 => if s.engine.buffers[k].isSome then 1 else 0
      let ofDest := if s.engine.dest.isSome then 1 else 0
      let discarded := ((List.finRange 4).filter fun b => match s.seq.banks[b].owner with
        | some o => decide (o.op = .fetch ∧ o.discard = true)
        | none => false).length
      (∀ n : StreamId, owned (.read n) + owned (.assembly n) = ofStream n) ∧
      (∀ (n : StreamId) (r : ReadStream), s.streams[n] = .read r → owned (.assembly n) = 0) ∧
      (∀ (n : StreamId) (w : WriteStream), s.streams[n] = .write w → owned (.read n) = 0) ∧
      owned .post = s.post.entries.length ∧ (∀ k : Fin 2, owned (.jobSource k) = ofBuffer k) ∧
      owned .jobDest = ofDest ∧ owned .discard = discarded ∧
      s.pool.freeCount + ((List.finRange 8).map ofStream).sum + s.post.entries.length + ofBuffer 0 + ofBuffer 1 +
        ofDest + discarded = 48) ∧
    (∀ k o, s.pool.slots[k].owner = .free → o ≠ .free → (s.own k o).pool.freeCount + 1 = s.pool.freeCount) ∧
    (∀ k, s.pool.slots[k].owner ≠ .free → (s.release k).pool.freeCount = s.pool.freeCount + 1) ∧
    (∀ k o, s.pool.slots[k].owner ≠ .free → o ≠ .free → (s.own k o).pool.freeCount = s.pool.freeCount)

/-- Patch-on-accept: every FILLED entry for the line, in every read stream, takes the incoming bytes under the mask;
every other slot's bytes, every owner and every other part of the state are left. -/
def Obligations.PatchOnAcceptReachesEveryFilledEntry : Prop :=
  ∀ (line : Nat) (mask : ByteMask) (incoming : Line) (s : State),
    s.patchFilled line mask incoming =
      { s with pool := { s.pool with slots := (s.patchFilled line mask incoming).pool.slots } } ∧
    (∀ k : SlotId, (s.patchFilled line mask incoming).pool.slots[k].owner = s.pool.slots[k].owner) ∧
    (∀ (n : StreamId) (r : ReadStream) (e : ReadEntry), s.streams[n] = .read r → e ∈ r.queue → e.line = line →
      e.state = .filled →
      ∀ i : Fin 16, ((s.patchFilled line mask incoming).bytesOf e.slot)[i] =
        if mask.getLsbD i.val then incoming[i] else (s.bytesOf e.slot)[i]) ∧
    ∀ k : SlotId, (∀ (n : StreamId) (r : ReadStream) (e : ReadEntry), s.streams[n] = .read r → e ∈ r.queue →
        e.line = line → e.state = .filled → e.slot ≠ k) →
      (s.patchFilled line mask incoming).bytesOf k = s.bytesOf k

/-- The current value of an address changes as R86 says: an accepted post's marked bytes take its bytes; a grant to
RETIRING and a store's completion change nothing; a merged return is the current value where no entry for
the line is RETIRING. -/
def Obligations.CurrentValueFollowsAcceptedPosts : Prop :=
  (∀ (line : Nat) (mask : ByteMask) (k : SlotId) (s t : State), line % 16 = 0 → OneWaitingPerLine s →
    (∀ e ∈ s.post.entries, e.slot ≠ k) → (s.post.entries.map PostEntry.slot).Nodup →
    (∀ (n : StreamId) (r : ReadStream) (e : ReadEntry), s.streams[n] = .read r → e ∈ r.queue → e.state = .filled →
      e.slot ≠ k ∧ ∀ x ∈ s.post.entries, x.slot ≠ e.slot) →
    s.acceptPost line mask k = some t →
    (∀ i : Fin 16, t.currentValue (line + i.val) =
      if mask.getLsbD i.val then (s.bytesOf k)[i] else s.currentValue (line + i.val)) ∧
    ∀ a, lineOf a ≠ line → t.currentValue a = s.currentValue a) ∧
  (∀ (e : PostEntry) (s : State) (a : Nat), OneWaitingPerLine s → s.post.oldestWaiting = some e →
    (∀ x ∈ s.post.entries, x.line = e.line → x.state = .waiting) →
    (s.withPost s.post.retireOldest).currentValue a = s.currentValue a) ∧
  (∀ (e : PostEntry) (o : OwnerRecord) (s : State) (a : Nat), MemoryCanonical s → e ∈ s.post.entries →
    e.state = .retiring → o.line = e.line → o.mask = e.mask → o.slot = e.slot → e.line % 16 = 0 →
    (∀ x ∈ s.post.entries, x.state = .retiring → x.slot = e.slot ∨ x.line = e.line → x = e) →
    ((s.store o).removeStored o.slot).currentValue a = s.currentValue a) ∧
  ∀ (line : Nat) (s : State) (i : Fin 16), line % 16 = 0 →
    (∀ e ∈ s.post.entries, e.line = line → e.state = .waiting) →
    (s.mergeOnReturn line (Memory.readLine s.memory line))[i] = s.currentValue (line + i.val)

/-! ### Frames -/

/-- What a bus access leaves unchanged when it gives a next state: memory in every case, and every register but those
the row names. The consequences that an access brings about lie in streams, pool, queues, banks and engine. -/
def Obligations.BusAccessesLeaveTheRest : Prop :=
  ∀ (i : Instr) (p : Position) (a : Access) (s t : State), i.wellFormed = true → busAccessOf i = some (p, a) →
    exec i s = .next t →
    t.pending = s.pending ∧ t.resetLow = s.resetLow ∧ t.startClose = s.startClose ∧ t.seq.wide = s.seq.wide ∧
    t.seq.wideLeft = s.seq.wideLeft ∧ t.renewal.debt = s.renewal.debt ∧ t.renewal.interval = s.renewal.interval ∧
    t.pins = s.pins ∧ t.draws = s.draws ∧ (∀ x : Nat, Memory.read t.memory x = Memory.read s.memory x) ∧
    (i ≠ .setTiming → t.timing = s.timing) ∧ (i ≠ .setClock → t.clock = s.clock) ∧
    (i ≠ .memStart → p ≠ .control → t.seq.memory = s.seq.memory ∧ t.startUp = s.startUp) ∧
    ((∀ k, p ≠ .param k) → t.port.param = s.port.param) ∧
    (i ≠ .queryStream → i ≠ .cancelJob → i ≠ .takeCompletion → p ≠ .control → t.port.result = s.port.result) ∧
    (p ≠ .eventEnable → t.events.enable = s.events.enable) ∧
    (p ≠ .streamEventEnable → t.events.streamEnable = s.events.streamEnable) ∧
    (s.port.state ≠ .resetting → p ≠ .control → p ≠ .eventPending →
      t.events.renewalLate = s.events.renewalLate ∧ (i ≠ .sync → t.events.syncDone = s.events.syncDone) ∧
      (p ≠ .command → t.events.cmdRefused = s.events.cmdRefused) ∧
      (p ≠ .command → (∀ n, p ≠ .data n) → t.events.cmdDone = s.events.cmdDone) ∧
      ((∀ n, p ≠ .data n) → (∀ k, p ≠ .unmapped k) → t.events.portMisuse = s.events.portMisuse)) ∧
    (s.port.state ≠ .resetting → p ≠ .control →
      ∀ m : StreamId, p ≠ .data m → p ≠ .streamEvent m → t.streamFlags[m] = s.streamFlags[m])

/-- What the event rows leave unchanged, and what ends every event. A consequence keeps the whole frozen part
(memory, parameter and result bytes, timing, timebase, debt, enables, pins); LINGER_EXPIRY, ROW_AGE_EXPIRY,
OPEN_SETTLE_END, a bank's CLOSE_SETTLE_END, WRITE_DATA_END and FETCH_RETURN change of it the pins alone, and a
store's completion the pins and the memory. State.finish runs consequences until none is left, at most 4096 of
them, a bound that is the model's own (log entry 9); then the banks that became ready stand in ascending order, a free data bus makes the burst of the bank
at the head due and is held for it, the steps that became due stand in ascending order, and a CLOSE ALL that soft
reset called for stands behind them. -/
def Obligations.EventRowsKeepTheFrozenPart : Prop :=
  (∀ (i : Instr) (s : State),
    i ∈ [Instr.slotGrant, .requestGrant, .heldPostAcceptance, .drainComplete, .opportunisticRenewal, .resettingEnd,
      .jobStart, .destinationLineBuild, .scanExamination, .compareChunk, .jobEnd] →
    ∃ t, exec i s = .next t ∧ frozen t = frozen s) ∧
  (∀ (i : Instr) (n : StreamId) (b : BankId) (s t : State),
    i ∈ [Instr.lingerExpiry n, .rowAgeExpiry b, .openSettleEnd b, .closeSettleEnd (.bank b), .writeDataEnd b,
      .fetchReturn b] →
    exec i s = .next t → frozen t = { frozen s with pins := t.pins }) ∧
  (∀ (b : BankId) (s t : State), exec (.storeComplete b) s = .next t →
    frozen t = { frozen s with pins := t.pins, memory := t.memory }) ∧
  (∀ before s : State, ∃ (count : Nat) (run : Nat → State) (due : List (BankId × BankStep)) (u : State),
    run 0 = s ∧ (∀ k, k < count → settleStep (run k) = some (run (k + 1))) ∧
    (count = 4096 ∨ (count < 4096 ∧ settleStep (run count) = none)) ∧
    State.finish before s = u ∧
    u = { run count with seq := { (run count).seq with
      burstOrder := u.seq.burstOrder, dataBus := u.seq.dataBus, due := u.seq.due
      resetCloseAll := u.seq.resetCloseAll } } ∧
    CloseAllPlaced before (run count).seq.resetCloseAll u.seq.resetCloseAll u.seq.due ∧
    OrderedAfter before.seq.burstOrder.length Fin.val (run count).seq.burstOrder u.seq.burstOrder ∧
    OrderedAfter before.seq.due.length (fun d => d.1.val) due u.seq.due ∧
    (∀ b, (run count).seq.dataBus = some b → u.seq.dataBus = some b ∧ due = (run count).seq.due) ∧
    ((run count).seq.dataBus = none → u.seq.burstOrder = [] → u.seq.dataBus = none ∧ due = (run count).seq.due) ∧
    (∀ b rest, (run count).seq.dataBus = none → u.seq.burstOrder = b :: rest → u.seq.dataBus = some b ∧
      ((run count).seq.hasDue b = false → due = (run count).seq.due ++ [(b, .burst)]) ∧
      ((run count).seq.hasDue b = true → due = (run count).seq.due))) ∧
  (∀ s t : State, settleStep s = some t → frozen t = frozen s ∧
    t ∈ ([syncClaims, slotGrant, heldPostAcceptance, drainComplete, jobEnd, jobStart, destinationLineBuild,
      engineRequest, scanExamination, compareChunk, renewalStart, requestGrant, resettingEnd,
      resetCallSatisfied].filterMap fun a => a s)) ∧
  ∀ s : State, settleStep s = none → Settled s

/-- No command but a store's completion and a fall of /RESET changes a byte of memory. -/
def Obligations.MemoryChangesOnlyAtStoresAndPinReset : Prop :=
  ∀ (i : Instr) (s t : State), i ≠ .pinReset → (∀ b, i ≠ .storeComplete b) → exec i s = .next t →
    ∀ a : Nat, Memory.read t.memory a = Memory.read s.memory a

/-! ### Invariants that every step keeps -/

/-- Every step keeps the memory in its canonical form. -/
def Obligations.EveryStepKeepsMemoryCanonical : Prop :=
  ∀ s t : State, MemoryCanonical s → step s = .next t → MemoryCanonical t

/-- Every step keeps the laws of the queues and counters (at most 16 posts with one WAITING entry for a line, 4 jobs, 4
records, read-ahead within depth with one REQUESTED entry, debt at most 8); the ownership of slots and
operations, and with it one RETIRING entry for a line, and that every owned slot has its holder, so that none
leaks; what RESETTING leaves of the requesters; and coherence, by which every FILLED entry equals the current
value. -/
def Obligations.EveryStepKeepsQueueAndCounterLaws : Prop :=
  ∀ s t : State, step s = .next t →
    (QueuesWithinCapacity s ∧ OneWaitingPerLine s ∧ ReadAheadLawful s ∧ DebtCapped s →
      QueuesWithinCapacity t ∧ OneWaitingPerLine t ∧ ReadAheadLawful t ∧ DebtCapped t) ∧
    (SlotsLawful s ∧ OperationsLawful s → SlotsLawful t ∧ OperationsLawful t ∧ OneRetiringPerLine t) ∧
    (SlotsLawful s ∧ OperationsLawful s ∧ SlotsHeld s → SlotsHeld t) ∧
    (ResettingQuiet s → ResettingQuiet t) ∧
    (Coherent s → Coherent t)

/-- Every step keeps the laws of the bank table: a busy bank has an owner, at most one burst uses the data bus, and
memory-wide steps and an unstarted memory leave every bank CLOSED without owner. -/
def Obligations.EveryStepKeepsBankLaws : Prop :=
  ∀ s t : State, BanksLawful s → step s = .next t → BanksLawful t

end
end

