-- ==== Sys2Proof/Laws/Order.lean ====
section
/-! SUPPORT. The cyclic order of the three round-robin searches: every member stands in it, the place at which
one stands, and which member a search finds first. -/

namespace Sys2Proof.Laws

open Sys2Proof.Machine

/-- How far a member stands after a position: 0 for the next one, n - 1 for the position itself. -/
theorem cyclicPlace_lt {n : Nat} (pos x : Fin n) : (x.val + n - (pos.val + 1)) % n < n :=
  Nat.mod_lt _ (Nat.lt_of_le_of_lt (Nat.zero_le _) pos.isLt)

/-- The member at a place of the cyclic order stands that far after the position. -/
theorem cyclicPlace_of_index {n : Nat} (pos : Fin n) {k : Nat} (hk : k < n) :
    ((pos.val + 1 + k) % n + n - (pos.val + 1)) % n = k := by
  have hp := pos.isLt
  rcases Nat.lt_or_ge (pos.val + 1 + k) n with h | h
  · rw [Nat.mod_eq_of_lt h, show pos.val + 1 + k + n - (pos.val + 1) = k + n by omega, Nat.add_mod_right,
      Nat.mod_eq_of_lt hk]
  · have e : (pos.val + 1 + k) % n = pos.val + 1 + k - n := by
      rw [Nat.mod_eq_sub_mod h, Nat.mod_eq_of_lt (by omega)]
    rw [e, show pos.val + 1 + k - n + n - (pos.val + 1) = k by omega, Nat.mod_eq_of_lt hk]

/-- A member stands at its place. -/
theorem cyclic_index_of_place {n : Nat} (pos x : Fin n) :
    (pos.val + 1 + (x.val + n - (pos.val + 1)) % n) % n = x.val := by
  have hp := pos.isLt
  have hx := x.isLt
  rcases Nat.lt_or_ge x.val (pos.val + 1) with h | h
  · rw [Nat.mod_eq_of_lt (by omega : x.val + n - (pos.val + 1) < n),
      show pos.val + 1 + (x.val + n - (pos.val + 1)) = x.val + n by omega, Nat.add_mod_right, Nat.mod_eq_of_lt hx]
  · rw [show x.val + n - (pos.val + 1) = x.val - (pos.val + 1) + n by omega, Nat.add_mod_right,
      Nat.mod_eq_of_lt (by omega : x.val - (pos.val + 1) < n),
      show pos.val + 1 + (x.val - (pos.val + 1)) = x.val by omega, Nat.mod_eq_of_lt hx]

theorem mem_cyclicAfter {n : Nat} (pos x : Fin n) : x ∈ cyclicAfter pos := by
  unfold cyclicAfter
  rw [List.mem_map]
  exact ⟨_, List.mem_range.mpr (cyclicPlace_lt pos x), Fin.ext (cyclic_index_of_place pos x)⟩

/-- A search answers none exactly when no member has anything. -/
theorem cyclic_findSome_none {n : Nat} {β : Type} (pos : Fin n) (f : Fin n → Option β) :
    (cyclicAfter pos).findSome? f = none ↔ ∀ x, f x = none := by
  rw [List.findSome?_eq_none_iff]
  exact ⟨fun h x => h x (mem_cyclicAfter pos x), fun h x _ => h x⟩

/-- The range up to n, cut before and after one of its numbers. -/
theorem range_cut {n d : Nat} (h : d < n) :
    List.range n = List.range d ++ d :: (List.range (n - d - 1)).map (fun k => d + (k + 1)) := by
  have e : n = d + ((n - d - 1) + 1) := by omega
  conv_lhs => rw [e, List.range_add, List.range_succ_eq_map]
  simp [Function.comp_def]

/-- A search answers the member of the least place that has something. -/
theorem cyclic_findSome_first {n : Nat} {β : Type} (pos : Fin n) (f : Fin n → Option β) (x : Fin n) (y : β)
    (hx : f x = some y)
    (before : ∀ z : Fin n, (z.val + n - (pos.val + 1)) % n < (x.val + n - (pos.val + 1)) % n → f z = none) :
    (cyclicAfter pos).findSome? f = some y := by
  have hn : 0 < n := Nat.lt_of_le_of_lt (Nat.zero_le _) pos.isLt
  unfold cyclicAfter
  rw [List.findSome?_map, range_cut (cyclicPlace_lt pos x), List.findSome?_append]
  have none_before : List.findSome? (f ∘ fun k => (⟨(pos.val + 1 + k) % n, Nat.mod_lt _ hn⟩ : Fin n))
      (List.range ((x.val + n - (pos.val + 1)) % n)) = none := by
    rw [List.findSome?_eq_none_iff]
    intro k hk
    have hk' := List.mem_range.mp hk
    apply before
    have := cyclicPlace_of_index pos (Nat.lt_trans hk' (cyclicPlace_lt pos x))
    simpa only [this] using hk'
  have at_x : (⟨(pos.val + 1 + (x.val + n - (pos.val + 1)) % n) % n, Nat.mod_lt _ hn⟩ : Fin n) = x :=
    Fin.ext (cyclic_index_of_place pos x)
  have hit : (f ∘ fun k => (⟨(pos.val + 1 + k) % n, Nat.mod_lt _ hn⟩ : Fin n))
      ((x.val + n - (pos.val + 1)) % n) = some y := by
    exact (congrArg f at_x).trans hx
  rw [none_before, List.findSome?_cons, hit]
  rfl

/-- What a search answers is the answer of some member, and every member of a lesser place has
nothing. -/
theorem cyclic_findSome_spec {n : Nat} {β : Type} (pos : Fin n) (f : Fin n → Option β) (y : β)
    (h : (cyclicAfter pos).findSome? f = some y) :
    ∃ x : Fin n, f x = some y ∧
      ∀ z : Fin n, (z.val + n - (pos.val + 1)) % n < (x.val + n - (pos.val + 1)) % n → f z = none := by
  have hn : 0 < n := Nat.lt_of_le_of_lt (Nat.zero_le _) pos.isLt
  have some_member : ∃ k, k < n ∧ ∃ x : Fin n, (x.val + n - (pos.val + 1)) % n = k ∧ f x ≠ none := by
    obtain ⟨x, _, hx⟩ := List.exists_of_findSome?_eq_some h
    exact ⟨_, cyclicPlace_lt pos x, x, rfl, by simp [hx]⟩
  classical
  obtain ⟨_, x, hk, hx⟩ := Nat.find_spec some_member
  have before : ∀ z : Fin n, (z.val + n - (pos.val + 1)) % n < (x.val + n - (pos.val + 1)) % n → f z = none := by
    intro z hz
    by_contra hne
    exact Nat.find_min some_member (hk ▸ hz) ⟨cyclicPlace_lt pos z, z, rfl, hne⟩
  obtain ⟨v, hv⟩ := Option.ne_none_iff_exists'.mp hx
  have := cyclic_findSome_first pos f x v hv before
  rw [this, Option.some.injEq] at h
  exact ⟨x, h ▸ hv, before⟩

end Sys2Proof.Laws
end

