-- ==== Sys2Proof/Laws/State.lean ====
section
/-! SUPPORT. One lemma per field per update of State, each true by rfl: no later proof unfolds an update. -/

namespace Sys2Proof.Laws

open Sys2Proof.Machine

variable (s : State)

/-! withBus -/
@[simp] theorem withBus_pending (b : Bus) : (s.withBus b).pending = s.pending := rfl
@[simp] theorem withBus_resetLow (b : Bus) : (s.withBus b).resetLow = s.resetLow := rfl
@[simp] theorem withBus_bus (b : Bus) : (s.withBus b).bus = b := rfl
@[simp] theorem withBus_clock (b : Bus) : (s.withBus b).clock = s.clock := rfl
@[simp] theorem withBus_port (b : Bus) : (s.withBus b).port = s.port := rfl
@[simp] theorem withBus_streams (b : Bus) : (s.withBus b).streams = s.streams := rfl
@[simp] theorem withBus_streamFlags (b : Bus) : (s.withBus b).streamFlags = s.streamFlags := rfl
@[simp] theorem withBus_pool (b : Bus) : (s.withBus b).pool = s.pool := rfl
@[simp] theorem withBus_post (b : Bus) : (s.withBus b).post = s.post := rfl
@[simp] theorem withBus_seq (b : Bus) : (s.withBus b).seq = s.seq := rfl
@[simp] theorem withBus_startUp (b : Bus) : (s.withBus b).startUp = s.startUp := rfl
@[simp] theorem withBus_startClose (b : Bus) : (s.withBus b).startClose = s.startClose := rfl
@[simp] theorem withBus_timing (b : Bus) : (s.withBus b).timing = s.timing := rfl
@[simp] theorem withBus_renewal (b : Bus) : (s.withBus b).renewal = s.renewal := rfl
@[simp] theorem withBus_engine (b : Bus) : (s.withBus b).engine = s.engine := rfl
@[simp] theorem withBus_events (b : Bus) : (s.withBus b).events = s.events := rfl
@[simp] theorem withBus_pins (b : Bus) : (s.withBus b).pins = s.pins := rfl
@[simp] theorem withBus_memory (b : Bus) : (s.withBus b).memory = s.memory := rfl
@[simp] theorem withBus_draws (b : Bus) : (s.withBus b).draws = s.draws := rfl

/-! withClock -/
@[simp] theorem withClock_pending (c : Clock) : (s.withClock c).pending = s.pending := rfl
@[simp] theorem withClock_resetLow (c : Clock) : (s.withClock c).resetLow = s.resetLow := rfl
@[simp] theorem withClock_bus (c : Clock) : (s.withClock c).bus = s.bus := rfl
@[simp] theorem withClock_clock (c : Clock) : (s.withClock c).clock = c := rfl
@[simp] theorem withClock_port (c : Clock) : (s.withClock c).port = s.port := rfl
@[simp] theorem withClock_streams (c : Clock) : (s.withClock c).streams = s.streams := rfl
@[simp] theorem withClock_streamFlags (c : Clock) : (s.withClock c).streamFlags = s.streamFlags := rfl
@[simp] theorem withClock_pool (c : Clock) : (s.withClock c).pool = s.pool := rfl
@[simp] theorem withClock_post (c : Clock) : (s.withClock c).post = s.post := rfl
@[simp] theorem withClock_seq (c : Clock) : (s.withClock c).seq = s.seq := rfl
@[simp] theorem withClock_startUp (c : Clock) : (s.withClock c).startUp = s.startUp := rfl
@[simp] theorem withClock_startClose (c : Clock) : (s.withClock c).startClose = s.startClose := rfl
@[simp] theorem withClock_timing (c : Clock) : (s.withClock c).timing = s.timing := rfl
@[simp] theorem withClock_renewal (c : Clock) : (s.withClock c).renewal = s.renewal := rfl
@[simp] theorem withClock_engine (c : Clock) : (s.withClock c).engine = s.engine := rfl
@[simp] theorem withClock_events (c : Clock) : (s.withClock c).events = s.events := rfl
@[simp] theorem withClock_pins (c : Clock) : (s.withClock c).pins = s.pins := rfl
@[simp] theorem withClock_memory (c : Clock) : (s.withClock c).memory = s.memory := rfl
@[simp] theorem withClock_draws (c : Clock) : (s.withClock c).draws = s.draws := rfl

/-! withPort -/
@[simp] theorem withPort_pending (p : Port) : (s.withPort p).pending = s.pending := rfl
@[simp] theorem withPort_resetLow (p : Port) : (s.withPort p).resetLow = s.resetLow := rfl
@[simp] theorem withPort_bus (p : Port) : (s.withPort p).bus = s.bus := rfl
@[simp] theorem withPort_clock (p : Port) : (s.withPort p).clock = s.clock := rfl
@[simp] theorem withPort_port (p : Port) : (s.withPort p).port = p := rfl
@[simp] theorem withPort_streams (p : Port) : (s.withPort p).streams = s.streams := rfl
@[simp] theorem withPort_streamFlags (p : Port) : (s.withPort p).streamFlags = s.streamFlags := rfl
@[simp] theorem withPort_pool (p : Port) : (s.withPort p).pool = s.pool := rfl
@[simp] theorem withPort_post (p : Port) : (s.withPort p).post = s.post := rfl
@[simp] theorem withPort_seq (p : Port) : (s.withPort p).seq = s.seq := rfl
@[simp] theorem withPort_startUp (p : Port) : (s.withPort p).startUp = s.startUp := rfl
@[simp] theorem withPort_startClose (p : Port) : (s.withPort p).startClose = s.startClose := rfl
@[simp] theorem withPort_timing (p : Port) : (s.withPort p).timing = s.timing := rfl
@[simp] theorem withPort_renewal (p : Port) : (s.withPort p).renewal = s.renewal := rfl
@[simp] theorem withPort_engine (p : Port) : (s.withPort p).engine = s.engine := rfl
@[simp] theorem withPort_events (p : Port) : (s.withPort p).events = s.events := rfl
@[simp] theorem withPort_pins (p : Port) : (s.withPort p).pins = s.pins := rfl
@[simp] theorem withPort_memory (p : Port) : (s.withPort p).memory = s.memory := rfl
@[simp] theorem withPort_draws (p : Port) : (s.withPort p).draws = s.draws := rfl

/-! withPool -/
@[simp] theorem withPool_pending (p : Pool) : (s.withPool p).pending = s.pending := rfl
@[simp] theorem withPool_resetLow (p : Pool) : (s.withPool p).resetLow = s.resetLow := rfl
@[simp] theorem withPool_bus (p : Pool) : (s.withPool p).bus = s.bus := rfl
@[simp] theorem withPool_clock (p : Pool) : (s.withPool p).clock = s.clock := rfl
@[simp] theorem withPool_port (p : Pool) : (s.withPool p).port = s.port := rfl
@[simp] theorem withPool_streams (p : Pool) : (s.withPool p).streams = s.streams := rfl
@[simp] theorem withPool_streamFlags (p : Pool) : (s.withPool p).streamFlags = s.streamFlags := rfl
@[simp] theorem withPool_pool (p : Pool) : (s.withPool p).pool = p := rfl
@[simp] theorem withPool_post (p : Pool) : (s.withPool p).post = s.post := rfl
@[simp] theorem withPool_seq (p : Pool) : (s.withPool p).seq = s.seq := rfl
@[simp] theorem withPool_startUp (p : Pool) : (s.withPool p).startUp = s.startUp := rfl
@[simp] theorem withPool_startClose (p : Pool) : (s.withPool p).startClose = s.startClose := rfl
@[simp] theorem withPool_timing (p : Pool) : (s.withPool p).timing = s.timing := rfl
@[simp] theorem withPool_renewal (p : Pool) : (s.withPool p).renewal = s.renewal := rfl
@[simp] theorem withPool_engine (p : Pool) : (s.withPool p).engine = s.engine := rfl
@[simp] theorem withPool_events (p : Pool) : (s.withPool p).events = s.events := rfl
@[simp] theorem withPool_pins (p : Pool) : (s.withPool p).pins = s.pins := rfl
@[simp] theorem withPool_memory (p : Pool) : (s.withPool p).memory = s.memory := rfl
@[simp] theorem withPool_draws (p : Pool) : (s.withPool p).draws = s.draws := rfl

/-! withPost -/
@[simp] theorem withPost_pending (p : PostQueue) : (s.withPost p).pending = s.pending := rfl
@[simp] theorem withPost_resetLow (p : PostQueue) : (s.withPost p).resetLow = s.resetLow := rfl
@[simp] theorem withPost_bus (p : PostQueue) : (s.withPost p).bus = s.bus := rfl
@[simp] theorem withPost_clock (p : PostQueue) : (s.withPost p).clock = s.clock := rfl
@[simp] theorem withPost_port (p : PostQueue) : (s.withPost p).port = s.port := rfl
@[simp] theorem withPost_streams (p : PostQueue) : (s.withPost p).streams = s.streams := rfl
@[simp] theorem withPost_streamFlags (p : PostQueue) : (s.withPost p).streamFlags = s.streamFlags := rfl
@[simp] theorem withPost_pool (p : PostQueue) : (s.withPost p).pool = s.pool := rfl
@[simp] theorem withPost_post (p : PostQueue) : (s.withPost p).post = p := rfl
@[simp] theorem withPost_seq (p : PostQueue) : (s.withPost p).seq = s.seq := rfl
@[simp] theorem withPost_startUp (p : PostQueue) : (s.withPost p).startUp = s.startUp := rfl
@[simp] theorem withPost_startClose (p : PostQueue) : (s.withPost p).startClose = s.startClose := rfl
@[simp] theorem withPost_timing (p : PostQueue) : (s.withPost p).timing = s.timing := rfl
@[simp] theorem withPost_renewal (p : PostQueue) : (s.withPost p).renewal = s.renewal := rfl
@[simp] theorem withPost_engine (p : PostQueue) : (s.withPost p).engine = s.engine := rfl
@[simp] theorem withPost_events (p : PostQueue) : (s.withPost p).events = s.events := rfl
@[simp] theorem withPost_pins (p : PostQueue) : (s.withPost p).pins = s.pins := rfl
@[simp] theorem withPost_memory (p : PostQueue) : (s.withPost p).memory = s.memory := rfl
@[simp] theorem withPost_draws (p : PostQueue) : (s.withPost p).draws = s.draws := rfl

/-! withSeq -/
@[simp] theorem withSeq_pending (q : Sequencer) : (s.withSeq q).pending = s.pending := rfl
@[simp] theorem withSeq_resetLow (q : Sequencer) : (s.withSeq q).resetLow = s.resetLow := rfl
@[simp] theorem withSeq_bus (q : Sequencer) : (s.withSeq q).bus = s.bus := rfl
@[simp] theorem withSeq_clock (q : Sequencer) : (s.withSeq q).clock = s.clock := rfl
@[simp] theorem withSeq_port (q : Sequencer) : (s.withSeq q).port = s.port := rfl
@[simp] theorem withSeq_streams (q : Sequencer) : (s.withSeq q).streams = s.streams := rfl
@[simp] theorem withSeq_streamFlags (q : Sequencer) : (s.withSeq q).streamFlags = s.streamFlags := rfl
@[simp] theorem withSeq_pool (q : Sequencer) : (s.withSeq q).pool = s.pool := rfl
@[simp] theorem withSeq_post (q : Sequencer) : (s.withSeq q).post = s.post := rfl
@[simp] theorem withSeq_seq (q : Sequencer) : (s.withSeq q).seq = q := rfl
@[simp] theorem withSeq_startUp (q : Sequencer) : (s.withSeq q).startUp = s.startUp := rfl
@[simp] theorem withSeq_startClose (q : Sequencer) : (s.withSeq q).startClose = s.startClose := rfl
@[simp] theorem withSeq_timing (q : Sequencer) : (s.withSeq q).timing = s.timing := rfl
@[simp] theorem withSeq_renewal (q : Sequencer) : (s.withSeq q).renewal = s.renewal := rfl
@[simp] theorem withSeq_engine (q : Sequencer) : (s.withSeq q).engine = s.engine := rfl
@[simp] theorem withSeq_events (q : Sequencer) : (s.withSeq q).events = s.events := rfl
@[simp] theorem withSeq_pins (q : Sequencer) : (s.withSeq q).pins = s.pins := rfl
@[simp] theorem withSeq_memory (q : Sequencer) : (s.withSeq q).memory = s.memory := rfl
@[simp] theorem withSeq_draws (q : Sequencer) : (s.withSeq q).draws = s.draws := rfl

/-! withStartUp -/
@[simp] theorem withStartUp_pending (p : StartUp) : (s.withStartUp p).pending = s.pending := rfl
@[simp] theorem withStartUp_resetLow (p : StartUp) : (s.withStartUp p).resetLow = s.resetLow := rfl
@[simp] theorem withStartUp_bus (p : StartUp) : (s.withStartUp p).bus = s.bus := rfl
@[simp] theorem withStartUp_clock (p : StartUp) : (s.withStartUp p).clock = s.clock := rfl
@[simp] theorem withStartUp_port (p : StartUp) : (s.withStartUp p).port = s.port := rfl
@[simp] theorem withStartUp_streams (p : StartUp) : (s.withStartUp p).streams = s.streams := rfl
@[simp] theorem withStartUp_streamFlags (p : StartUp) : (s.withStartUp p).streamFlags = s.streamFlags := rfl
@[simp] theorem withStartUp_pool (p : StartUp) : (s.withStartUp p).pool = s.pool := rfl
@[simp] theorem withStartUp_post (p : StartUp) : (s.withStartUp p).post = s.post := rfl
@[simp] theorem withStartUp_seq (p : StartUp) : (s.withStartUp p).seq = s.seq := rfl
@[simp] theorem withStartUp_startUp (p : StartUp) : (s.withStartUp p).startUp = p := rfl
@[simp] theorem withStartUp_startClose (p : StartUp) : (s.withStartUp p).startClose = s.startClose := rfl
@[simp] theorem withStartUp_timing (p : StartUp) : (s.withStartUp p).timing = s.timing := rfl
@[simp] theorem withStartUp_renewal (p : StartUp) : (s.withStartUp p).renewal = s.renewal := rfl
@[simp] theorem withStartUp_engine (p : StartUp) : (s.withStartUp p).engine = s.engine := rfl
@[simp] theorem withStartUp_events (p : StartUp) : (s.withStartUp p).events = s.events := rfl
@[simp] theorem withStartUp_pins (p : StartUp) : (s.withStartUp p).pins = s.pins := rfl
@[simp] theorem withStartUp_memory (p : StartUp) : (s.withStartUp p).memory = s.memory := rfl
@[simp] theorem withStartUp_draws (p : StartUp) : (s.withStartUp p).draws = s.draws := rfl

/-! withStartClose -/
@[simp] theorem withStartClose_pending (c : Option Nat) : (s.withStartClose c).pending = s.pending := rfl
@[simp] theorem withStartClose_resetLow (c : Option Nat) : (s.withStartClose c).resetLow = s.resetLow := rfl
@[simp] theorem withStartClose_bus (c : Option Nat) : (s.withStartClose c).bus = s.bus := rfl
@[simp] theorem withStartClose_clock (c : Option Nat) : (s.withStartClose c).clock = s.clock := rfl
@[simp] theorem withStartClose_port (c : Option Nat) : (s.withStartClose c).port = s.port := rfl
@[simp] theorem withStartClose_streams (c : Option Nat) : (s.withStartClose c).streams = s.streams := rfl
@[simp] theorem withStartClose_streamFlags (c : Option Nat) : (s.withStartClose c).streamFlags = s.streamFlags := rfl
@[simp] theorem withStartClose_pool (c : Option Nat) : (s.withStartClose c).pool = s.pool := rfl
@[simp] theorem withStartClose_post (c : Option Nat) : (s.withStartClose c).post = s.post := rfl
@[simp] theorem withStartClose_seq (c : Option Nat) : (s.withStartClose c).seq = s.seq := rfl
@[simp] theorem withStartClose_startUp (c : Option Nat) : (s.withStartClose c).startUp = s.startUp := rfl
@[simp] theorem withStartClose_startClose (c : Option Nat) : (s.withStartClose c).startClose = c := rfl
@[simp] theorem withStartClose_timing (c : Option Nat) : (s.withStartClose c).timing = s.timing := rfl
@[simp] theorem withStartClose_renewal (c : Option Nat) : (s.withStartClose c).renewal = s.renewal := rfl
@[simp] theorem withStartClose_engine (c : Option Nat) : (s.withStartClose c).engine = s.engine := rfl
@[simp] theorem withStartClose_events (c : Option Nat) : (s.withStartClose c).events = s.events := rfl
@[simp] theorem withStartClose_pins (c : Option Nat) : (s.withStartClose c).pins = s.pins := rfl
@[simp] theorem withStartClose_memory (c : Option Nat) : (s.withStartClose c).memory = s.memory := rfl
@[simp] theorem withStartClose_draws (c : Option Nat) : (s.withStartClose c).draws = s.draws := rfl

/-! withTiming -/
@[simp] theorem withTiming_pending (t : TimingSet) : (s.withTiming t).pending = s.pending := rfl
@[simp] theorem withTiming_resetLow (t : TimingSet) : (s.withTiming t).resetLow = s.resetLow := rfl
@[simp] theorem withTiming_bus (t : TimingSet) : (s.withTiming t).bus = s.bus := rfl
@[simp] theorem withTiming_clock (t : TimingSet) : (s.withTiming t).clock = s.clock := rfl
@[simp] theorem withTiming_port (t : TimingSet) : (s.withTiming t).port = s.port := rfl
@[simp] theorem withTiming_streams (t : TimingSet) : (s.withTiming t).streams = s.streams := rfl
@[simp] theorem withTiming_streamFlags (t : TimingSet) : (s.withTiming t).streamFlags = s.streamFlags := rfl
@[simp] theorem withTiming_pool (t : TimingSet) : (s.withTiming t).pool = s.pool := rfl
@[simp] theorem withTiming_post (t : TimingSet) : (s.withTiming t).post = s.post := rfl
@[simp] theorem withTiming_seq (t : TimingSet) : (s.withTiming t).seq = s.seq := rfl
@[simp] theorem withTiming_startUp (t : TimingSet) : (s.withTiming t).startUp = s.startUp := rfl
@[simp] theorem withTiming_startClose (t : TimingSet) : (s.withTiming t).startClose = s.startClose := rfl
@[simp] theorem withTiming_timing (t : TimingSet) : (s.withTiming t).timing = t := rfl
@[simp] theorem withTiming_renewal (t : TimingSet) : (s.withTiming t).renewal = s.renewal := rfl
@[simp] theorem withTiming_engine (t : TimingSet) : (s.withTiming t).engine = s.engine := rfl
@[simp] theorem withTiming_events (t : TimingSet) : (s.withTiming t).events = s.events := rfl
@[simp] theorem withTiming_pins (t : TimingSet) : (s.withTiming t).pins = s.pins := rfl
@[simp] theorem withTiming_memory (t : TimingSet) : (s.withTiming t).memory = s.memory := rfl
@[simp] theorem withTiming_draws (t : TimingSet) : (s.withTiming t).draws = s.draws := rfl

/-! withRenewal -/
@[simp] theorem withRenewal_pending (r : Renewal) : (s.withRenewal r).pending = s.pending := rfl
@[simp] theorem withRenewal_resetLow (r : Renewal) : (s.withRenewal r).resetLow = s.resetLow := rfl
@[simp] theorem withRenewal_bus (r : Renewal) : (s.withRenewal r).bus = s.bus := rfl
@[simp] theorem withRenewal_clock (r : Renewal) : (s.withRenewal r).clock = s.clock := rfl
@[simp] theorem withRenewal_port (r : Renewal) : (s.withRenewal r).port = s.port := rfl
@[simp] theorem withRenewal_streams (r : Renewal) : (s.withRenewal r).streams = s.streams := rfl
@[simp] theorem withRenewal_streamFlags (r : Renewal) : (s.withRenewal r).streamFlags = s.streamFlags := rfl
@[simp] theorem withRenewal_pool (r : Renewal) : (s.withRenewal r).pool = s.pool := rfl
@[simp] theorem withRenewal_post (r : Renewal) : (s.withRenewal r).post = s.post := rfl
@[simp] theorem withRenewal_seq (r : Renewal) : (s.withRenewal r).seq = s.seq := rfl
@[simp] theorem withRenewal_startUp (r : Renewal) : (s.withRenewal r).startUp = s.startUp := rfl
@[simp] theorem withRenewal_startClose (r : Renewal) : (s.withRenewal r).startClose = s.startClose := rfl
@[simp] theorem withRenewal_timing (r : Renewal) : (s.withRenewal r).timing = s.timing := rfl
@[simp] theorem withRenewal_renewal (r : Renewal) : (s.withRenewal r).renewal = r := rfl
@[simp] theorem withRenewal_engine (r : Renewal) : (s.withRenewal r).engine = s.engine := rfl
@[simp] theorem withRenewal_events (r : Renewal) : (s.withRenewal r).events = s.events := rfl
@[simp] theorem withRenewal_pins (r : Renewal) : (s.withRenewal r).pins = s.pins := rfl
@[simp] theorem withRenewal_memory (r : Renewal) : (s.withRenewal r).memory = s.memory := rfl
@[simp] theorem withRenewal_draws (r : Renewal) : (s.withRenewal r).draws = s.draws := rfl

/-! withEngine -/
@[simp] theorem withEngine_pending (e : Engine) : (s.withEngine e).pending = s.pending := rfl
@[simp] theorem withEngine_resetLow (e : Engine) : (s.withEngine e).resetLow = s.resetLow := rfl
@[simp] theorem withEngine_bus (e : Engine) : (s.withEngine e).bus = s.bus := rfl
@[simp] theorem withEngine_clock (e : Engine) : (s.withEngine e).clock = s.clock := rfl
@[simp] theorem withEngine_port (e : Engine) : (s.withEngine e).port = s.port := rfl
@[simp] theorem withEngine_streams (e : Engine) : (s.withEngine e).streams = s.streams := rfl
@[simp] theorem withEngine_streamFlags (e : Engine) : (s.withEngine e).streamFlags = s.streamFlags := rfl
@[simp] theorem withEngine_pool (e : Engine) : (s.withEngine e).pool = s.pool := rfl
@[simp] theorem withEngine_post (e : Engine) : (s.withEngine e).post = s.post := rfl
@[simp] theorem withEngine_seq (e : Engine) : (s.withEngine e).seq = s.seq := rfl
@[simp] theorem withEngine_startUp (e : Engine) : (s.withEngine e).startUp = s.startUp := rfl
@[simp] theorem withEngine_startClose (e : Engine) : (s.withEngine e).startClose = s.startClose := rfl
@[simp] theorem withEngine_timing (e : Engine) : (s.withEngine e).timing = s.timing := rfl
@[simp] theorem withEngine_renewal (e : Engine) : (s.withEngine e).renewal = s.renewal := rfl
@[simp] theorem withEngine_engine (e : Engine) : (s.withEngine e).engine = e := rfl
@[simp] theorem withEngine_events (e : Engine) : (s.withEngine e).events = s.events := rfl
@[simp] theorem withEngine_pins (e : Engine) : (s.withEngine e).pins = s.pins := rfl
@[simp] theorem withEngine_memory (e : Engine) : (s.withEngine e).memory = s.memory := rfl
@[simp] theorem withEngine_draws (e : Engine) : (s.withEngine e).draws = s.draws := rfl

/-! withEvents -/
@[simp] theorem withEvents_pending (e : Events) : (s.withEvents e).pending = s.pending := rfl
@[simp] theorem withEvents_resetLow (e : Events) : (s.withEvents e).resetLow = s.resetLow := rfl
@[simp] theorem withEvents_bus (e : Events) : (s.withEvents e).bus = s.bus := rfl
@[simp] theorem withEvents_clock (e : Events) : (s.withEvents e).clock = s.clock := rfl
@[simp] theorem withEvents_port (e : Events) : (s.withEvents e).port = s.port := rfl
@[simp] theorem withEvents_streams (e : Events) : (s.withEvents e).streams = s.streams := rfl
@[simp] theorem withEvents_streamFlags (e : Events) : (s.withEvents e).streamFlags = s.streamFlags := rfl
@[simp] theorem withEvents_pool (e : Events) : (s.withEvents e).pool = s.pool := rfl
@[simp] theorem withEvents_post (e : Events) : (s.withEvents e).post = s.post := rfl
@[simp] theorem withEvents_seq (e : Events) : (s.withEvents e).seq = s.seq := rfl
@[simp] theorem withEvents_startUp (e : Events) : (s.withEvents e).startUp = s.startUp := rfl
@[simp] theorem withEvents_startClose (e : Events) : (s.withEvents e).startClose = s.startClose := rfl
@[simp] theorem withEvents_timing (e : Events) : (s.withEvents e).timing = s.timing := rfl
@[simp] theorem withEvents_renewal (e : Events) : (s.withEvents e).renewal = s.renewal := rfl
@[simp] theorem withEvents_engine (e : Events) : (s.withEvents e).engine = s.engine := rfl
@[simp] theorem withEvents_events (e : Events) : (s.withEvents e).events = e := rfl
@[simp] theorem withEvents_pins (e : Events) : (s.withEvents e).pins = s.pins := rfl
@[simp] theorem withEvents_memory (e : Events) : (s.withEvents e).memory = s.memory := rfl
@[simp] theorem withEvents_draws (e : Events) : (s.withEvents e).draws = s.draws := rfl

/-! withPins -/
@[simp] theorem withPins_pending (p : MemoryPins) : (s.withPins p).pending = s.pending := rfl
@[simp] theorem withPins_resetLow (p : MemoryPins) : (s.withPins p).resetLow = s.resetLow := rfl
@[simp] theorem withPins_bus (p : MemoryPins) : (s.withPins p).bus = s.bus := rfl
@[simp] theorem withPins_clock (p : MemoryPins) : (s.withPins p).clock = s.clock := rfl
@[simp] theorem withPins_port (p : MemoryPins) : (s.withPins p).port = s.port := rfl
@[simp] theorem withPins_streams (p : MemoryPins) : (s.withPins p).streams = s.streams := rfl
@[simp] theorem withPins_streamFlags (p : MemoryPins) : (s.withPins p).streamFlags = s.streamFlags := rfl
@[simp] theorem withPins_pool (p : MemoryPins) : (s.withPins p).pool = s.pool := rfl
@[simp] theorem withPins_post (p : MemoryPins) : (s.withPins p).post = s.post := rfl
@[simp] theorem withPins_seq (p : MemoryPins) : (s.withPins p).seq = s.seq := rfl
@[simp] theorem withPins_startUp (p : MemoryPins) : (s.withPins p).startUp = s.startUp := rfl
@[simp] theorem withPins_startClose (p : MemoryPins) : (s.withPins p).startClose = s.startClose := rfl
@[simp] theorem withPins_timing (p : MemoryPins) : (s.withPins p).timing = s.timing := rfl
@[simp] theorem withPins_renewal (p : MemoryPins) : (s.withPins p).renewal = s.renewal := rfl
@[simp] theorem withPins_engine (p : MemoryPins) : (s.withPins p).engine = s.engine := rfl
@[simp] theorem withPins_events (p : MemoryPins) : (s.withPins p).events = s.events := rfl
@[simp] theorem withPins_pins (p : MemoryPins) : (s.withPins p).pins = p := rfl
@[simp] theorem withPins_memory (p : MemoryPins) : (s.withPins p).memory = s.memory := rfl
@[simp] theorem withPins_draws (p : MemoryPins) : (s.withPins p).draws = s.draws := rfl

/-! withMemory -/
@[simp] theorem withMemory_pending (m : Memory) : (s.withMemory m).pending = s.pending := rfl
@[simp] theorem withMemory_resetLow (m : Memory) : (s.withMemory m).resetLow = s.resetLow := rfl
@[simp] theorem withMemory_bus (m : Memory) : (s.withMemory m).bus = s.bus := rfl
@[simp] theorem withMemory_clock (m : Memory) : (s.withMemory m).clock = s.clock := rfl
@[simp] theorem withMemory_port (m : Memory) : (s.withMemory m).port = s.port := rfl
@[simp] theorem withMemory_streams (m : Memory) : (s.withMemory m).streams = s.streams := rfl
@[simp] theorem withMemory_streamFlags (m : Memory) : (s.withMemory m).streamFlags = s.streamFlags := rfl
@[simp] theorem withMemory_pool (m : Memory) : (s.withMemory m).pool = s.pool := rfl
@[simp] theorem withMemory_post (m : Memory) : (s.withMemory m).post = s.post := rfl
@[simp] theorem withMemory_seq (m : Memory) : (s.withMemory m).seq = s.seq := rfl
@[simp] theorem withMemory_startUp (m : Memory) : (s.withMemory m).startUp = s.startUp := rfl
@[simp] theorem withMemory_startClose (m : Memory) : (s.withMemory m).startClose = s.startClose := rfl
@[simp] theorem withMemory_timing (m : Memory) : (s.withMemory m).timing = s.timing := rfl
@[simp] theorem withMemory_renewal (m : Memory) : (s.withMemory m).renewal = s.renewal := rfl
@[simp] theorem withMemory_engine (m : Memory) : (s.withMemory m).engine = s.engine := rfl
@[simp] theorem withMemory_events (m : Memory) : (s.withMemory m).events = s.events := rfl
@[simp] theorem withMemory_pins (m : Memory) : (s.withMemory m).pins = s.pins := rfl
@[simp] theorem withMemory_memory (m : Memory) : (s.withMemory m).memory = m := rfl
@[simp] theorem withMemory_draws (m : Memory) : (s.withMemory m).draws = s.draws := rfl

/-! withPending -/
@[simp] theorem withPending_pending (q : List Instr) : (s.withPending q).pending = q := rfl
@[simp] theorem withPending_resetLow (q : List Instr) : (s.withPending q).resetLow = s.resetLow := rfl
@[simp] theorem withPending_bus (q : List Instr) : (s.withPending q).bus = s.bus := rfl
@[simp] theorem withPending_clock (q : List Instr) : (s.withPending q).clock = s.clock := rfl
@[simp] theorem withPending_port (q : List Instr) : (s.withPending q).port = s.port := rfl
@[simp] theorem withPending_streams (q : List Instr) : (s.withPending q).streams = s.streams := rfl
@[simp] theorem withPending_streamFlags (q : List Instr) : (s.withPending q).streamFlags = s.streamFlags := rfl
@[simp] theorem withPending_pool (q : List Instr) : (s.withPending q).pool = s.pool := rfl
@[simp] theorem withPending_post (q : List Instr) : (s.withPending q).post = s.post := rfl
@[simp] theorem withPending_seq (q : List Instr) : (s.withPending q).seq = s.seq := rfl
@[simp] theorem withPending_startUp (q : List Instr) : (s.withPending q).startUp = s.startUp := rfl
@[simp] theorem withPending_startClose (q : List Instr) : (s.withPending q).startClose = s.startClose := rfl
@[simp] theorem withPending_timing (q : List Instr) : (s.withPending q).timing = s.timing := rfl
@[simp] theorem withPending_renewal (q : List Instr) : (s.withPending q).renewal = s.renewal := rfl
@[simp] theorem withPending_engine (q : List Instr) : (s.withPending q).engine = s.engine := rfl
@[simp] theorem withPending_events (q : List Instr) : (s.withPending q).events = s.events := rfl
@[simp] theorem withPending_pins (q : List Instr) : (s.withPending q).pins = s.pins := rfl
@[simp] theorem withPending_memory (q : List Instr) : (s.withPending q).memory = s.memory := rfl
@[simp] theorem withPending_draws (q : List Instr) : (s.withPending q).draws = s.draws := rfl

/-! withStreamFlags -/
@[simp] theorem withStreamFlags_pending (f : Vector StreamFlags 8) : (s.withStreamFlags f).pending = s.pending := rfl
@[simp] theorem withStreamFlags_resetLow (f : Vector StreamFlags 8) : (s.withStreamFlags f).resetLow = s.resetLow := rfl
@[simp] theorem withStreamFlags_bus (f : Vector StreamFlags 8) : (s.withStreamFlags f).bus = s.bus := rfl
@[simp] theorem withStreamFlags_clock (f : Vector StreamFlags 8) : (s.withStreamFlags f).clock = s.clock := rfl
@[simp] theorem withStreamFlags_port (f : Vector StreamFlags 8) : (s.withStreamFlags f).port = s.port := rfl
@[simp] theorem withStreamFlags_streams (f : Vector StreamFlags 8) : (s.withStreamFlags f).streams = s.streams := rfl
@[simp] theorem withStreamFlags_streamFlags (f : Vector StreamFlags 8) : (s.withStreamFlags f).streamFlags = f := rfl
@[simp] theorem withStreamFlags_pool (f : Vector StreamFlags 8) : (s.withStreamFlags f).pool = s.pool := rfl
@[simp] theorem withStreamFlags_post (f : Vector StreamFlags 8) : (s.withStreamFlags f).post = s.post := rfl
@[simp] theorem withStreamFlags_seq (f : Vector StreamFlags 8) : (s.withStreamFlags f).seq = s.seq := rfl
@[simp] theorem withStreamFlags_startUp (f : Vector StreamFlags 8) : (s.withStreamFlags f).startUp = s.startUp := rfl
@[simp] theorem withStreamFlags_startClose (f : Vector StreamFlags 8) : (s.withStreamFlags f).startClose = s.startClose := rfl
@[simp] theorem withStreamFlags_timing (f : Vector StreamFlags 8) : (s.withStreamFlags f).timing = s.timing := rfl
@[simp] theorem withStreamFlags_renewal (f : Vector StreamFlags 8) : (s.withStreamFlags f).renewal = s.renewal := rfl
@[simp] theorem withStreamFlags_engine (f : Vector StreamFlags 8) : (s.withStreamFlags f).engine = s.engine := rfl
@[simp] theorem withStreamFlags_events (f : Vector StreamFlags 8) : (s.withStreamFlags f).events = s.events := rfl
@[simp] theorem withStreamFlags_pins (f : Vector StreamFlags 8) : (s.withStreamFlags f).pins = s.pins := rfl
@[simp] theorem withStreamFlags_memory (f : Vector StreamFlags 8) : (s.withStreamFlags f).memory = s.memory := rfl
@[simp] theorem withStreamFlags_draws (f : Vector StreamFlags 8) : (s.withStreamFlags f).draws = s.draws := rfl

/-! withDraws -/
@[simp] theorem withDraws_pending (n : Nat) : (s.withDraws n).pending = s.pending := rfl
@[simp] theorem withDraws_resetLow (n : Nat) : (s.withDraws n).resetLow = s.resetLow := rfl
@[simp] theorem withDraws_bus (n : Nat) : (s.withDraws n).bus = s.bus := rfl
@[simp] theorem withDraws_clock (n : Nat) : (s.withDraws n).clock = s.clock := rfl
@[simp] theorem withDraws_port (n : Nat) : (s.withDraws n).port = s.port := rfl
@[simp] theorem withDraws_streams (n : Nat) : (s.withDraws n).streams = s.streams := rfl
@[simp] theorem withDraws_streamFlags (n : Nat) : (s.withDraws n).streamFlags = s.streamFlags := rfl
@[simp] theorem withDraws_pool (n : Nat) : (s.withDraws n).pool = s.pool := rfl
@[simp] theorem withDraws_post (n : Nat) : (s.withDraws n).post = s.post := rfl
@[simp] theorem withDraws_seq (n : Nat) : (s.withDraws n).seq = s.seq := rfl
@[simp] theorem withDraws_startUp (n : Nat) : (s.withDraws n).startUp = s.startUp := rfl
@[simp] theorem withDraws_startClose (n : Nat) : (s.withDraws n).startClose = s.startClose := rfl
@[simp] theorem withDraws_timing (n : Nat) : (s.withDraws n).timing = s.timing := rfl
@[simp] theorem withDraws_renewal (n : Nat) : (s.withDraws n).renewal = s.renewal := rfl
@[simp] theorem withDraws_engine (n : Nat) : (s.withDraws n).engine = s.engine := rfl
@[simp] theorem withDraws_events (n : Nat) : (s.withDraws n).events = s.events := rfl
@[simp] theorem withDraws_pins (n : Nat) : (s.withDraws n).pins = s.pins := rfl
@[simp] theorem withDraws_memory (n : Nat) : (s.withDraws n).memory = s.memory := rfl
@[simp] theorem withDraws_draws (n : Nat) : (s.withDraws n).draws = n := rfl

/-! setStream -/
@[simp] theorem setStream_pending (n : StreamId) (c : Stream) : (s.setStream n c).pending = s.pending := rfl
@[simp] theorem setStream_resetLow (n : StreamId) (c : Stream) : (s.setStream n c).resetLow = s.resetLow := rfl
@[simp] theorem setStream_bus (n : StreamId) (c : Stream) : (s.setStream n c).bus = s.bus := rfl
@[simp] theorem setStream_clock (n : StreamId) (c : Stream) : (s.setStream n c).clock = s.clock := rfl
@[simp] theorem setStream_port (n : StreamId) (c : Stream) : (s.setStream n c).port = s.port := rfl
@[simp] theorem setStream_streams (n : StreamId) (c : Stream) : (s.setStream n c).streams = s.streams.set n.val c n.isLt := rfl
@[simp] theorem setStream_streamFlags (n : StreamId) (c : Stream) : (s.setStream n c).streamFlags = s.streamFlags := rfl
@[simp] theorem setStream_pool (n : StreamId) (c : Stream) : (s.setStream n c).pool = s.pool := rfl
@[simp] theorem setStream_post (n : StreamId) (c : Stream) : (s.setStream n c).post = s.post := rfl
@[simp] theorem setStream_seq (n : StreamId) (c : Stream) : (s.setStream n c).seq = s.seq := rfl
@[simp] theorem setStream_startUp (n : StreamId) (c : Stream) : (s.setStream n c).startUp = s.startUp := rfl
@[simp] theorem setStream_startClose (n : StreamId) (c : Stream) : (s.setStream n c).startClose = s.startClose := rfl
@[simp] theorem setStream_timing (n : StreamId) (c : Stream) : (s.setStream n c).timing = s.timing := rfl
@[simp] theorem setStream_renewal (n : StreamId) (c : Stream) : (s.setStream n c).renewal = s.renewal := rfl
@[simp] theorem setStream_engine (n : StreamId) (c : Stream) : (s.setStream n c).engine = s.engine := rfl
@[simp] theorem setStream_events (n : StreamId) (c : Stream) : (s.setStream n c).events = s.events := rfl
@[simp] theorem setStream_pins (n : StreamId) (c : Stream) : (s.setStream n c).pins = s.pins := rfl
@[simp] theorem setStream_memory (n : StreamId) (c : Stream) : (s.setStream n c).memory = s.memory := rfl
@[simp] theorem setStream_draws (n : StreamId) (c : Stream) : (s.setStream n c).draws = s.draws := rfl

/-! setFlags -/
@[simp] theorem setFlags_pending (n : StreamId) (x : StreamFlags) : (s.setFlags n x).pending = s.pending := rfl
@[simp] theorem setFlags_resetLow (n : StreamId) (x : StreamFlags) : (s.setFlags n x).resetLow = s.resetLow := rfl
@[simp] theorem setFlags_bus (n : StreamId) (x : StreamFlags) : (s.setFlags n x).bus = s.bus := rfl
@[simp] theorem setFlags_clock (n : StreamId) (x : StreamFlags) : (s.setFlags n x).clock = s.clock := rfl
@[simp] theorem setFlags_port (n : StreamId) (x : StreamFlags) : (s.setFlags n x).port = s.port := rfl
@[simp] theorem setFlags_streams (n : StreamId) (x : StreamFlags) : (s.setFlags n x).streams = s.streams := rfl
@[simp] theorem setFlags_streamFlags (n : StreamId) (x : StreamFlags) : (s.setFlags n x).streamFlags = s.streamFlags.set n.val x n.isLt := rfl
@[simp] theorem setFlags_pool (n : StreamId) (x : StreamFlags) : (s.setFlags n x).pool = s.pool := rfl
@[simp] theorem setFlags_post (n : StreamId) (x : StreamFlags) : (s.setFlags n x).post = s.post := rfl
@[simp] theorem setFlags_seq (n : StreamId) (x : StreamFlags) : (s.setFlags n x).seq = s.seq := rfl
@[simp] theorem setFlags_startUp (n : StreamId) (x : StreamFlags) : (s.setFlags n x).startUp = s.startUp := rfl
@[simp] theorem setFlags_startClose (n : StreamId) (x : StreamFlags) : (s.setFlags n x).startClose = s.startClose := rfl
@[simp] theorem setFlags_timing (n : StreamId) (x : StreamFlags) : (s.setFlags n x).timing = s.timing := rfl
@[simp] theorem setFlags_renewal (n : StreamId) (x : StreamFlags) : (s.setFlags n x).renewal = s.renewal := rfl
@[simp] theorem setFlags_engine (n : StreamId) (x : StreamFlags) : (s.setFlags n x).engine = s.engine := rfl
@[simp] theorem setFlags_events (n : StreamId) (x : StreamFlags) : (s.setFlags n x).events = s.events := rfl
@[simp] theorem setFlags_pins (n : StreamId) (x : StreamFlags) : (s.setFlags n x).pins = s.pins := rfl
@[simp] theorem setFlags_memory (n : StreamId) (x : StreamFlags) : (s.setFlags n x).memory = s.memory := rfl
@[simp] theorem setFlags_draws (n : StreamId) (x : StreamFlags) : (s.setFlags n x).draws = s.draws := rfl

/-! closeStreams -/
@[simp] theorem closeStreams_pending : (s.closeStreams).pending = s.pending := rfl
@[simp] theorem closeStreams_resetLow : (s.closeStreams).resetLow = s.resetLow := rfl
@[simp] theorem closeStreams_bus : (s.closeStreams).bus = s.bus := rfl
@[simp] theorem closeStreams_clock : (s.closeStreams).clock = s.clock := rfl
@[simp] theorem closeStreams_port : (s.closeStreams).port = s.port := rfl
@[simp] theorem closeStreams_streams : (s.closeStreams).streams = Vector.replicate 8 .closed := rfl
@[simp] theorem closeStreams_streamFlags : (s.closeStreams).streamFlags = s.streamFlags := rfl
@[simp] theorem closeStreams_pool : (s.closeStreams).pool = s.pool := rfl
@[simp] theorem closeStreams_post : (s.closeStreams).post = s.post := rfl
@[simp] theorem closeStreams_seq : (s.closeStreams).seq = s.seq := rfl
@[simp] theorem closeStreams_startUp : (s.closeStreams).startUp = s.startUp := rfl
@[simp] theorem closeStreams_startClose : (s.closeStreams).startClose = s.startClose := rfl
@[simp] theorem closeStreams_timing : (s.closeStreams).timing = s.timing := rfl
@[simp] theorem closeStreams_renewal : (s.closeStreams).renewal = s.renewal := rfl
@[simp] theorem closeStreams_engine : (s.closeStreams).engine = s.engine := rfl
@[simp] theorem closeStreams_events : (s.closeStreams).events = s.events := rfl
@[simp] theorem closeStreams_pins : (s.closeStreams).pins = s.pins := rfl
@[simp] theorem closeStreams_memory : (s.closeStreams).memory = s.memory := rfl
@[simp] theorem closeStreams_draws : (s.closeStreams).draws = s.draws := rfl

/-! mapSeq -/
@[simp] theorem mapSeq_pending (f : Sequencer → Sequencer) : (s.mapSeq f).pending = s.pending := rfl
@[simp] theorem mapSeq_resetLow (f : Sequencer → Sequencer) : (s.mapSeq f).resetLow = s.resetLow := rfl
@[simp] theorem mapSeq_bus (f : Sequencer → Sequencer) : (s.mapSeq f).bus = s.bus := rfl
@[simp] theorem mapSeq_clock (f : Sequencer → Sequencer) : (s.mapSeq f).clock = s.clock := rfl
@[simp] theorem mapSeq_port (f : Sequencer → Sequencer) : (s.mapSeq f).port = s.port := rfl
@[simp] theorem mapSeq_streams (f : Sequencer → Sequencer) : (s.mapSeq f).streams = s.streams := rfl
@[simp] theorem mapSeq_streamFlags (f : Sequencer → Sequencer) : (s.mapSeq f).streamFlags = s.streamFlags := rfl
@[simp] theorem mapSeq_pool (f : Sequencer → Sequencer) : (s.mapSeq f).pool = s.pool := rfl
@[simp] theorem mapSeq_post (f : Sequencer → Sequencer) : (s.mapSeq f).post = s.post := rfl
@[simp] theorem mapSeq_seq (f : Sequencer → Sequencer) : (s.mapSeq f).seq = f s.seq := rfl
@[simp] theorem mapSeq_startUp (f : Sequencer → Sequencer) : (s.mapSeq f).startUp = s.startUp := rfl
@[simp] theorem mapSeq_startClose (f : Sequencer → Sequencer) : (s.mapSeq f).startClose = s.startClose := rfl
@[simp] theorem mapSeq_timing (f : Sequencer → Sequencer) : (s.mapSeq f).timing = s.timing := rfl
@[simp] theorem mapSeq_renewal (f : Sequencer → Sequencer) : (s.mapSeq f).renewal = s.renewal := rfl
@[simp] theorem mapSeq_engine (f : Sequencer → Sequencer) : (s.mapSeq f).engine = s.engine := rfl
@[simp] theorem mapSeq_events (f : Sequencer → Sequencer) : (s.mapSeq f).events = s.events := rfl
@[simp] theorem mapSeq_pins (f : Sequencer → Sequencer) : (s.mapSeq f).pins = s.pins := rfl
@[simp] theorem mapSeq_memory (f : Sequencer → Sequencer) : (s.mapSeq f).memory = s.memory := rfl
@[simp] theorem mapSeq_draws (f : Sequencer → Sequencer) : (s.mapSeq f).draws = s.draws := rfl

/-! mapEvents -/
@[simp] theorem mapEvents_pending (f : Events → Events) : (s.mapEvents f).pending = s.pending := rfl
@[simp] theorem mapEvents_resetLow (f : Events → Events) : (s.mapEvents f).resetLow = s.resetLow := rfl
@[simp] theorem mapEvents_bus (f : Events → Events) : (s.mapEvents f).bus = s.bus := rfl
@[simp] theorem mapEvents_clock (f : Events → Events) : (s.mapEvents f).clock = s.clock := rfl
@[simp] theorem mapEvents_port (f : Events → Events) : (s.mapEvents f).port = s.port := rfl
@[simp] theorem mapEvents_streams (f : Events → Events) : (s.mapEvents f).streams = s.streams := rfl
@[simp] theorem mapEvents_streamFlags (f : Events → Events) : (s.mapEvents f).streamFlags = s.streamFlags := rfl
@[simp] theorem mapEvents_pool (f : Events → Events) : (s.mapEvents f).pool = s.pool := rfl
@[simp] theorem mapEvents_post (f : Events → Events) : (s.mapEvents f).post = s.post := rfl
@[simp] theorem mapEvents_seq (f : Events → Events) : (s.mapEvents f).seq = s.seq := rfl
@[simp] theorem mapEvents_startUp (f : Events → Events) : (s.mapEvents f).startUp = s.startUp := rfl
@[simp] theorem mapEvents_startClose (f : Events → Events) : (s.mapEvents f).startClose = s.startClose := rfl
@[simp] theorem mapEvents_timing (f : Events → Events) : (s.mapEvents f).timing = s.timing := rfl
@[simp] theorem mapEvents_renewal (f : Events → Events) : (s.mapEvents f).renewal = s.renewal := rfl
@[simp] theorem mapEvents_engine (f : Events → Events) : (s.mapEvents f).engine = s.engine := rfl
@[simp] theorem mapEvents_events (f : Events → Events) : (s.mapEvents f).events = f s.events := rfl
@[simp] theorem mapEvents_pins (f : Events → Events) : (s.mapEvents f).pins = s.pins := rfl
@[simp] theorem mapEvents_memory (f : Events → Events) : (s.mapEvents f).memory = s.memory := rfl
@[simp] theorem mapEvents_draws (f : Events → Events) : (s.mapEvents f).draws = s.draws := rfl

/-! mapEngine -/
@[simp] theorem mapEngine_pending (f : Engine → Engine) : (s.mapEngine f).pending = s.pending := rfl
@[simp] theorem mapEngine_resetLow (f : Engine → Engine) : (s.mapEngine f).resetLow = s.resetLow := rfl
@[simp] theorem mapEngine_bus (f : Engine → Engine) : (s.mapEngine f).bus = s.bus := rfl
@[simp] theorem mapEngine_clock (f : Engine → Engine) : (s.mapEngine f).clock = s.clock := rfl
@[simp] theorem mapEngine_port (f : Engine → Engine) : (s.mapEngine f).port = s.port := rfl
@[simp] theorem mapEngine_streams (f : Engine → Engine) : (s.mapEngine f).streams = s.streams := rfl
@[simp] theorem mapEngine_streamFlags (f : Engine → Engine) : (s.mapEngine f).streamFlags = s.streamFlags := rfl
@[simp] theorem mapEngine_pool (f : Engine → Engine) : (s.mapEngine f).pool = s.pool := rfl
@[simp] theorem mapEngine_post (f : Engine → Engine) : (s.mapEngine f).post = s.post := rfl
@[simp] theorem mapEngine_seq (f : Engine → Engine) : (s.mapEngine f).seq = s.seq := rfl
@[simp] theorem mapEngine_startUp (f : Engine → Engine) : (s.mapEngine f).startUp = s.startUp := rfl
@[simp] theorem mapEngine_startClose (f : Engine → Engine) : (s.mapEngine f).startClose = s.startClose := rfl
@[simp] theorem mapEngine_timing (f : Engine → Engine) : (s.mapEngine f).timing = s.timing := rfl
@[simp] theorem mapEngine_renewal (f : Engine → Engine) : (s.mapEngine f).renewal = s.renewal := rfl
@[simp] theorem mapEngine_engine (f : Engine → Engine) : (s.mapEngine f).engine = f s.engine := rfl
@[simp] theorem mapEngine_events (f : Engine → Engine) : (s.mapEngine f).events = s.events := rfl
@[simp] theorem mapEngine_pins (f : Engine → Engine) : (s.mapEngine f).pins = s.pins := rfl
@[simp] theorem mapEngine_memory (f : Engine → Engine) : (s.mapEngine f).memory = s.memory := rfl
@[simp] theorem mapEngine_draws (f : Engine → Engine) : (s.mapEngine f).draws = s.draws := rfl

/-! mapFlags -/
@[simp] theorem mapFlags_pending (n : StreamId) (f : StreamFlags → StreamFlags) : (s.mapFlags n f).pending = s.pending := rfl
@[simp] theorem mapFlags_resetLow (n : StreamId) (f : StreamFlags → StreamFlags) : (s.mapFlags n f).resetLow = s.resetLow := rfl
@[simp] theorem mapFlags_bus (n : StreamId) (f : StreamFlags → StreamFlags) : (s.mapFlags n f).bus = s.bus := rfl
@[simp] theorem mapFlags_clock (n : StreamId) (f : StreamFlags → StreamFlags) : (s.mapFlags n f).clock = s.clock := rfl
@[simp] theorem mapFlags_port (n : StreamId) (f : StreamFlags → StreamFlags) : (s.mapFlags n f).port = s.port := rfl
@[simp] theorem mapFlags_streams (n : StreamId) (f : StreamFlags → StreamFlags) : (s.mapFlags n f).streams = s.streams := rfl
@[simp] theorem mapFlags_streamFlags (n : StreamId) (f : StreamFlags → StreamFlags) : (s.mapFlags n f).streamFlags = s.streamFlags.set n.val (f s.streamFlags[n]) n.isLt := rfl
@[simp] theorem mapFlags_pool (n : StreamId) (f : StreamFlags → StreamFlags) : (s.mapFlags n f).pool = s.pool := rfl
@[simp] theorem mapFlags_post (n : StreamId) (f : StreamFlags → StreamFlags) : (s.mapFlags n f).post = s.post := rfl
@[simp] theorem mapFlags_seq (n : StreamId) (f : StreamFlags → StreamFlags) : (s.mapFlags n f).seq = s.seq := rfl
@[simp] theorem mapFlags_startUp (n : StreamId) (f : StreamFlags → StreamFlags) : (s.mapFlags n f).startUp = s.startUp := rfl
@[simp] theorem mapFlags_startClose (n : StreamId) (f : StreamFlags → StreamFlags) : (s.mapFlags n f).startClose = s.startClose := rfl
@[simp] theorem mapFlags_timing (n : StreamId) (f : StreamFlags → StreamFlags) : (s.mapFlags n f).timing = s.timing := rfl
@[simp] theorem mapFlags_renewal (n : StreamId) (f : StreamFlags → StreamFlags) : (s.mapFlags n f).renewal = s.renewal := rfl
@[simp] theorem mapFlags_engine (n : StreamId) (f : StreamFlags → StreamFlags) : (s.mapFlags n f).engine = s.engine := rfl
@[simp] theorem mapFlags_events (n : StreamId) (f : StreamFlags → StreamFlags) : (s.mapFlags n f).events = s.events := rfl
@[simp] theorem mapFlags_pins (n : StreamId) (f : StreamFlags → StreamFlags) : (s.mapFlags n f).pins = s.pins := rfl
@[simp] theorem mapFlags_memory (n : StreamId) (f : StreamFlags → StreamFlags) : (s.mapFlags n f).memory = s.memory := rfl
@[simp] theorem mapFlags_draws (n : StreamId) (f : StreamFlags → StreamFlags) : (s.mapFlags n f).draws = s.draws := rfl

/-! setBank -/
@[simp] theorem setBank_pending (b : BankId) (r : Bank) : (s.setBank b r).pending = s.pending := rfl
@[simp] theorem setBank_resetLow (b : BankId) (r : Bank) : (s.setBank b r).resetLow = s.resetLow := rfl
@[simp] theorem setBank_bus (b : BankId) (r : Bank) : (s.setBank b r).bus = s.bus := rfl
@[simp] theorem setBank_clock (b : BankId) (r : Bank) : (s.setBank b r).clock = s.clock := rfl
@[simp] theorem setBank_port (b : BankId) (r : Bank) : (s.setBank b r).port = s.port := rfl
@[simp] theorem setBank_streams (b : BankId) (r : Bank) : (s.setBank b r).streams = s.streams := rfl
@[simp] theorem setBank_streamFlags (b : BankId) (r : Bank) : (s.setBank b r).streamFlags = s.streamFlags := rfl
@[simp] theorem setBank_pool (b : BankId) (r : Bank) : (s.setBank b r).pool = s.pool := rfl
@[simp] theorem setBank_post (b : BankId) (r : Bank) : (s.setBank b r).post = s.post := rfl
@[simp] theorem setBank_seq (b : BankId) (r : Bank) : (s.setBank b r).seq = { s.seq with banks := s.seq.banks.set b.val r b.isLt } := rfl
@[simp] theorem setBank_startUp (b : BankId) (r : Bank) : (s.setBank b r).startUp = s.startUp := rfl
@[simp] theorem setBank_startClose (b : BankId) (r : Bank) : (s.setBank b r).startClose = s.startClose := rfl
@[simp] theorem setBank_timing (b : BankId) (r : Bank) : (s.setBank b r).timing = s.timing := rfl
@[simp] theorem setBank_renewal (b : BankId) (r : Bank) : (s.setBank b r).renewal = s.renewal := rfl
@[simp] theorem setBank_engine (b : BankId) (r : Bank) : (s.setBank b r).engine = s.engine := rfl
@[simp] theorem setBank_events (b : BankId) (r : Bank) : (s.setBank b r).events = s.events := rfl
@[simp] theorem setBank_pins (b : BankId) (r : Bank) : (s.setBank b r).pins = s.pins := rfl
@[simp] theorem setBank_memory (b : BankId) (r : Bank) : (s.setBank b r).memory = s.memory := rfl
@[simp] theorem setBank_draws (b : BankId) (r : Bank) : (s.setBank b r).draws = s.draws := rfl

/-! setSlot -/
@[simp] theorem setSlot_pending (k : SlotId) (x : Slot) : (s.setSlot k x).pending = s.pending := rfl
@[simp] theorem setSlot_resetLow (k : SlotId) (x : Slot) : (s.setSlot k x).resetLow = s.resetLow := rfl
@[simp] theorem setSlot_bus (k : SlotId) (x : Slot) : (s.setSlot k x).bus = s.bus := rfl
@[simp] theorem setSlot_clock (k : SlotId) (x : Slot) : (s.setSlot k x).clock = s.clock := rfl
@[simp] theorem setSlot_port (k : SlotId) (x : Slot) : (s.setSlot k x).port = s.port := rfl
@[simp] theorem setSlot_streams (k : SlotId) (x : Slot) : (s.setSlot k x).streams = s.streams := rfl
@[simp] theorem setSlot_streamFlags (k : SlotId) (x : Slot) : (s.setSlot k x).streamFlags = s.streamFlags := rfl
@[simp] theorem setSlot_pool (k : SlotId) (x : Slot) : (s.setSlot k x).pool = { s.pool with slots := s.pool.slots.set k.val x k.isLt } := rfl
@[simp] theorem setSlot_post (k : SlotId) (x : Slot) : (s.setSlot k x).post = s.post := rfl
@[simp] theorem setSlot_seq (k : SlotId) (x : Slot) : (s.setSlot k x).seq = s.seq := rfl
@[simp] theorem setSlot_startUp (k : SlotId) (x : Slot) : (s.setSlot k x).startUp = s.startUp := rfl
@[simp] theorem setSlot_startClose (k : SlotId) (x : Slot) : (s.setSlot k x).startClose = s.startClose := rfl
@[simp] theorem setSlot_timing (k : SlotId) (x : Slot) : (s.setSlot k x).timing = s.timing := rfl
@[simp] theorem setSlot_renewal (k : SlotId) (x : Slot) : (s.setSlot k x).renewal = s.renewal := rfl
@[simp] theorem setSlot_engine (k : SlotId) (x : Slot) : (s.setSlot k x).engine = s.engine := rfl
@[simp] theorem setSlot_events (k : SlotId) (x : Slot) : (s.setSlot k x).events = s.events := rfl
@[simp] theorem setSlot_pins (k : SlotId) (x : Slot) : (s.setSlot k x).pins = s.pins := rfl
@[simp] theorem setSlot_memory (k : SlotId) (x : Slot) : (s.setSlot k x).memory = s.memory := rfl
@[simp] theorem setSlot_draws (k : SlotId) (x : Slot) : (s.setSlot k x).draws = s.draws := rfl

/-! own -/
@[simp] theorem own_pending (k : SlotId) (o : Owner) : (s.own k o).pending = s.pending := rfl
@[simp] theorem own_resetLow (k : SlotId) (o : Owner) : (s.own k o).resetLow = s.resetLow := rfl
@[simp] theorem own_bus (k : SlotId) (o : Owner) : (s.own k o).bus = s.bus := rfl
@[simp] theorem own_clock (k : SlotId) (o : Owner) : (s.own k o).clock = s.clock := rfl
@[simp] theorem own_port (k : SlotId) (o : Owner) : (s.own k o).port = s.port := rfl
@[simp] theorem own_streams (k : SlotId) (o : Owner) : (s.own k o).streams = s.streams := rfl
@[simp] theorem own_streamFlags (k : SlotId) (o : Owner) : (s.own k o).streamFlags = s.streamFlags := rfl
@[simp] theorem own_pool (k : SlotId) (o : Owner) : (s.own k o).pool = { s.pool with slots := s.pool.slots.set k.val { s.pool.slots[k] with owner := o } k.isLt } := rfl
@[simp] theorem own_post (k : SlotId) (o : Owner) : (s.own k o).post = s.post := rfl
@[simp] theorem own_seq (k : SlotId) (o : Owner) : (s.own k o).seq = s.seq := rfl
@[simp] theorem own_startUp (k : SlotId) (o : Owner) : (s.own k o).startUp = s.startUp := rfl
@[simp] theorem own_startClose (k : SlotId) (o : Owner) : (s.own k o).startClose = s.startClose := rfl
@[simp] theorem own_timing (k : SlotId) (o : Owner) : (s.own k o).timing = s.timing := rfl
@[simp] theorem own_renewal (k : SlotId) (o : Owner) : (s.own k o).renewal = s.renewal := rfl
@[simp] theorem own_engine (k : SlotId) (o : Owner) : (s.own k o).engine = s.engine := rfl
@[simp] theorem own_events (k : SlotId) (o : Owner) : (s.own k o).events = s.events := rfl
@[simp] theorem own_pins (k : SlotId) (o : Owner) : (s.own k o).pins = s.pins := rfl
@[simp] theorem own_memory (k : SlotId) (o : Owner) : (s.own k o).memory = s.memory := rfl
@[simp] theorem own_draws (k : SlotId) (o : Owner) : (s.own k o).draws = s.draws := rfl

/-! release -/
@[simp] theorem release_pending (k : SlotId) : (s.release k).pending = s.pending := rfl
@[simp] theorem release_resetLow (k : SlotId) : (s.release k).resetLow = s.resetLow := rfl
@[simp] theorem release_bus (k : SlotId) : (s.release k).bus = s.bus := rfl
@[simp] theorem release_clock (k : SlotId) : (s.release k).clock = s.clock := rfl
@[simp] theorem release_port (k : SlotId) : (s.release k).port = s.port := rfl
@[simp] theorem release_streams (k : SlotId) : (s.release k).streams = s.streams := rfl
@[simp] theorem release_streamFlags (k : SlotId) : (s.release k).streamFlags = s.streamFlags := rfl
@[simp] theorem release_pool (k : SlotId) : (s.release k).pool = { s.pool with slots := s.pool.slots.set k.val { s.pool.slots[k] with owner := .free } k.isLt } := rfl
@[simp] theorem release_post (k : SlotId) : (s.release k).post = s.post := rfl
@[simp] theorem release_seq (k : SlotId) : (s.release k).seq = s.seq := rfl
@[simp] theorem release_startUp (k : SlotId) : (s.release k).startUp = s.startUp := rfl
@[simp] theorem release_startClose (k : SlotId) : (s.release k).startClose = s.startClose := rfl
@[simp] theorem release_timing (k : SlotId) : (s.release k).timing = s.timing := rfl
@[simp] theorem release_renewal (k : SlotId) : (s.release k).renewal = s.renewal := rfl
@[simp] theorem release_engine (k : SlotId) : (s.release k).engine = s.engine := rfl
@[simp] theorem release_events (k : SlotId) : (s.release k).events = s.events := rfl
@[simp] theorem release_pins (k : SlotId) : (s.release k).pins = s.pins := rfl
@[simp] theorem release_memory (k : SlotId) : (s.release k).memory = s.memory := rfl
@[simp] theorem release_draws (k : SlotId) : (s.release k).draws = s.draws := rfl

/-! fillSlot -/
@[simp] theorem fillSlot_pending (k : SlotId) (l : Line) : (s.fillSlot k l).pending = s.pending := rfl
@[simp] theorem fillSlot_resetLow (k : SlotId) (l : Line) : (s.fillSlot k l).resetLow = s.resetLow := rfl
@[simp] theorem fillSlot_bus (k : SlotId) (l : Line) : (s.fillSlot k l).bus = s.bus := rfl
@[simp] theorem fillSlot_clock (k : SlotId) (l : Line) : (s.fillSlot k l).clock = s.clock := rfl
@[simp] theorem fillSlot_port (k : SlotId) (l : Line) : (s.fillSlot k l).port = s.port := rfl
@[simp] theorem fillSlot_streams (k : SlotId) (l : Line) : (s.fillSlot k l).streams = s.streams := rfl
@[simp] theorem fillSlot_streamFlags (k : SlotId) (l : Line) : (s.fillSlot k l).streamFlags = s.streamFlags := rfl
@[simp] theorem fillSlot_pool (k : SlotId) (l : Line) : (s.fillSlot k l).pool = { s.pool with slots := s.pool.slots.set k.val { s.pool.slots[k] with bytes := l } k.isLt } := rfl
@[simp] theorem fillSlot_post (k : SlotId) (l : Line) : (s.fillSlot k l).post = s.post := rfl
@[simp] theorem fillSlot_seq (k : SlotId) (l : Line) : (s.fillSlot k l).seq = s.seq := rfl
@[simp] theorem fillSlot_startUp (k : SlotId) (l : Line) : (s.fillSlot k l).startUp = s.startUp := rfl
@[simp] theorem fillSlot_startClose (k : SlotId) (l : Line) : (s.fillSlot k l).startClose = s.startClose := rfl
@[simp] theorem fillSlot_timing (k : SlotId) (l : Line) : (s.fillSlot k l).timing = s.timing := rfl
@[simp] theorem fillSlot_renewal (k : SlotId) (l : Line) : (s.fillSlot k l).renewal = s.renewal := rfl
@[simp] theorem fillSlot_engine (k : SlotId) (l : Line) : (s.fillSlot k l).engine = s.engine := rfl
@[simp] theorem fillSlot_events (k : SlotId) (l : Line) : (s.fillSlot k l).events = s.events := rfl
@[simp] theorem fillSlot_pins (k : SlotId) (l : Line) : (s.fillSlot k l).pins = s.pins := rfl
@[simp] theorem fillSlot_memory (k : SlotId) (l : Line) : (s.fillSlot k l).memory = s.memory := rfl
@[simp] theorem fillSlot_draws (k : SlotId) (l : Line) : (s.fillSlot k l).draws = s.draws := rfl

/-! idlePins -/
@[simp] theorem idlePins_pending : (s.idlePins).pending = s.pending := rfl
@[simp] theorem idlePins_resetLow : (s.idlePins).resetLow = s.resetLow := rfl
@[simp] theorem idlePins_bus : (s.idlePins).bus = s.bus := rfl
@[simp] theorem idlePins_clock : (s.idlePins).clock = s.clock := rfl
@[simp] theorem idlePins_port : (s.idlePins).port = s.port := rfl
@[simp] theorem idlePins_streams : (s.idlePins).streams = s.streams := rfl
@[simp] theorem idlePins_streamFlags : (s.idlePins).streamFlags = s.streamFlags := rfl
@[simp] theorem idlePins_pool : (s.idlePins).pool = s.pool := rfl
@[simp] theorem idlePins_post : (s.idlePins).post = s.post := rfl
@[simp] theorem idlePins_seq : (s.idlePins).seq = s.seq := rfl
@[simp] theorem idlePins_startUp : (s.idlePins).startUp = s.startUp := rfl
@[simp] theorem idlePins_startClose : (s.idlePins).startClose = s.startClose := rfl
@[simp] theorem idlePins_timing : (s.idlePins).timing = s.timing := rfl
@[simp] theorem idlePins_renewal : (s.idlePins).renewal = s.renewal := rfl
@[simp] theorem idlePins_engine : (s.idlePins).engine = s.engine := rfl
@[simp] theorem idlePins_events : (s.idlePins).events = s.events := rfl
@[simp] theorem idlePins_pins : (s.idlePins).pins = { s.pins with command := CommandPins.idle } := rfl
@[simp] theorem idlePins_memory : (s.idlePins).memory = s.memory := rfl
@[simp] theorem idlePins_draws : (s.idlePins).draws = s.draws := rfl

/-! freeBus -/
@[simp] theorem freeBus_pending : (s.freeBus).pending = s.pending := rfl
@[simp] theorem freeBus_resetLow : (s.freeBus).resetLow = s.resetLow := rfl
@[simp] theorem freeBus_bus : (s.freeBus).bus = s.bus := rfl
@[simp] theorem freeBus_clock : (s.freeBus).clock = s.clock := rfl
@[simp] theorem freeBus_port : (s.freeBus).port = s.port := rfl
@[simp] theorem freeBus_streams : (s.freeBus).streams = s.streams := rfl
@[simp] theorem freeBus_streamFlags : (s.freeBus).streamFlags = s.streamFlags := rfl
@[simp] theorem freeBus_pool : (s.freeBus).pool = s.pool := rfl
@[simp] theorem freeBus_post : (s.freeBus).post = s.post := rfl
@[simp] theorem freeBus_seq : (s.freeBus).seq = { s.seq with dataBus := none } := rfl
@[simp] theorem freeBus_startUp : (s.freeBus).startUp = s.startUp := rfl
@[simp] theorem freeBus_startClose : (s.freeBus).startClose = s.startClose := rfl
@[simp] theorem freeBus_timing : (s.freeBus).timing = s.timing := rfl
@[simp] theorem freeBus_renewal : (s.freeBus).renewal = s.renewal := rfl
@[simp] theorem freeBus_engine : (s.freeBus).engine = s.engine := rfl
@[simp] theorem freeBus_events : (s.freeBus).events = s.events := rfl
@[simp] theorem freeBus_pins : (s.freeBus).pins = s.pins := rfl
@[simp] theorem freeBus_memory : (s.freeBus).memory = s.memory := rfl
@[simp] theorem freeBus_draws : (s.freeBus).draws = s.draws := rfl

/-! writeResults -/
@[simp] theorem writeResults_pending (r : Vector Byte 8) : (s.writeResults r).pending = s.pending := rfl
@[simp] theorem writeResults_resetLow (r : Vector Byte 8) : (s.writeResults r).resetLow = s.resetLow := rfl
@[simp] theorem writeResults_bus (r : Vector Byte 8) : (s.writeResults r).bus = s.bus := rfl
@[simp] theorem writeResults_clock (r : Vector Byte 8) : (s.writeResults r).clock = s.clock := rfl
@[simp] theorem writeResults_port (r : Vector Byte 8) : (s.writeResults r).port = { s.port with result := r } := rfl
@[simp] theorem writeResults_streams (r : Vector Byte 8) : (s.writeResults r).streams = s.streams := rfl
@[simp] theorem writeResults_streamFlags (r : Vector Byte 8) : (s.writeResults r).streamFlags = s.streamFlags := rfl
@[simp] theorem writeResults_pool (r : Vector Byte 8) : (s.writeResults r).pool = s.pool := rfl
@[simp] theorem writeResults_post (r : Vector Byte 8) : (s.writeResults r).post = s.post := rfl
@[simp] theorem writeResults_seq (r : Vector Byte 8) : (s.writeResults r).seq = s.seq := rfl
@[simp] theorem writeResults_startUp (r : Vector Byte 8) : (s.writeResults r).startUp = s.startUp := rfl
@[simp] theorem writeResults_startClose (r : Vector Byte 8) : (s.writeResults r).startClose = s.startClose := rfl
@[simp] theorem writeResults_timing (r : Vector Byte 8) : (s.writeResults r).timing = s.timing := rfl
@[simp] theorem writeResults_renewal (r : Vector Byte 8) : (s.writeResults r).renewal = s.renewal := rfl
@[simp] theorem writeResults_engine (r : Vector Byte 8) : (s.writeResults r).engine = s.engine := rfl
@[simp] theorem writeResults_events (r : Vector Byte 8) : (s.writeResults r).events = s.events := rfl
@[simp] theorem writeResults_pins (r : Vector Byte 8) : (s.writeResults r).pins = s.pins := rfl
@[simp] theorem writeResults_memory (r : Vector Byte 8) : (s.writeResults r).memory = s.memory := rfl
@[simp] theorem writeResults_draws (r : Vector Byte 8) : (s.writeResults r).draws = s.draws := rfl

/-! stayExecuting -/
@[simp] theorem stayExecuting_pending (c : LongCommand) (p : Vector Byte 16) : (s.stayExecuting c p).pending = s.pending := rfl
@[simp] theorem stayExecuting_resetLow (c : LongCommand) (p : Vector Byte 16) : (s.stayExecuting c p).resetLow = s.resetLow := rfl
@[simp] theorem stayExecuting_bus (c : LongCommand) (p : Vector Byte 16) : (s.stayExecuting c p).bus = s.bus := rfl
@[simp] theorem stayExecuting_clock (c : LongCommand) (p : Vector Byte 16) : (s.stayExecuting c p).clock = s.clock := rfl
@[simp] theorem stayExecuting_port (c : LongCommand) (p : Vector Byte 16) : (s.stayExecuting c p).port = { s.port with state := .executing { command := c, params := p } } := rfl
@[simp] theorem stayExecuting_streams (c : LongCommand) (p : Vector Byte 16) : (s.stayExecuting c p).streams = s.streams := rfl
@[simp] theorem stayExecuting_streamFlags (c : LongCommand) (p : Vector Byte 16) : (s.stayExecuting c p).streamFlags = s.streamFlags := rfl
@[simp] theorem stayExecuting_pool (c : LongCommand) (p : Vector Byte 16) : (s.stayExecuting c p).pool = s.pool := rfl
@[simp] theorem stayExecuting_post (c : LongCommand) (p : Vector Byte 16) : (s.stayExecuting c p).post = s.post := rfl
@[simp] theorem stayExecuting_seq (c : LongCommand) (p : Vector Byte 16) : (s.stayExecuting c p).seq = s.seq := rfl
@[simp] theorem stayExecuting_startUp (c : LongCommand) (p : Vector Byte 16) : (s.stayExecuting c p).startUp = s.startUp := rfl
@[simp] theorem stayExecuting_startClose (c : LongCommand) (p : Vector Byte 16) : (s.stayExecuting c p).startClose = s.startClose := rfl
@[simp] theorem stayExecuting_timing (c : LongCommand) (p : Vector Byte 16) : (s.stayExecuting c p).timing = s.timing := rfl
@[simp] theorem stayExecuting_renewal (c : LongCommand) (p : Vector Byte 16) : (s.stayExecuting c p).renewal = s.renewal := rfl
@[simp] theorem stayExecuting_engine (c : LongCommand) (p : Vector Byte 16) : (s.stayExecuting c p).engine = s.engine := rfl
@[simp] theorem stayExecuting_events (c : LongCommand) (p : Vector Byte 16) : (s.stayExecuting c p).events = s.events := rfl
@[simp] theorem stayExecuting_pins (c : LongCommand) (p : Vector Byte 16) : (s.stayExecuting c p).pins = s.pins := rfl
@[simp] theorem stayExecuting_memory (c : LongCommand) (p : Vector Byte 16) : (s.stayExecuting c p).memory = s.memory := rfl
@[simp] theorem stayExecuting_draws (c : LongCommand) (p : Vector Byte 16) : (s.stayExecuting c p).draws = s.draws := rfl

/-! complete -/
@[simp] theorem complete_pending (r : ResultCode) : (s.complete r).pending = s.pending := rfl
@[simp] theorem complete_resetLow (r : ResultCode) : (s.complete r).resetLow = s.resetLow := rfl
@[simp] theorem complete_bus (r : ResultCode) : (s.complete r).bus = s.bus := rfl
@[simp] theorem complete_clock (r : ResultCode) : (s.complete r).clock = s.clock := rfl
@[simp] theorem complete_port (r : ResultCode) : (s.complete r).port = { s.port with lastResult := r, state := .idle } := rfl
@[simp] theorem complete_streams (r : ResultCode) : (s.complete r).streams = s.streams := rfl
@[simp] theorem complete_streamFlags (r : ResultCode) : (s.complete r).streamFlags = s.streamFlags := rfl
@[simp] theorem complete_pool (r : ResultCode) : (s.complete r).pool = s.pool := rfl
@[simp] theorem complete_post (r : ResultCode) : (s.complete r).post = s.post := rfl
@[simp] theorem complete_seq (r : ResultCode) : (s.complete r).seq = s.seq := rfl
@[simp] theorem complete_startUp (r : ResultCode) : (s.complete r).startUp = s.startUp := rfl
@[simp] theorem complete_startClose (r : ResultCode) : (s.complete r).startClose = s.startClose := rfl
@[simp] theorem complete_timing (r : ResultCode) : (s.complete r).timing = s.timing := rfl
@[simp] theorem complete_renewal (r : ResultCode) : (s.complete r).renewal = s.renewal := rfl
@[simp] theorem complete_engine (r : ResultCode) : (s.complete r).engine = s.engine := rfl
@[simp] theorem complete_events (r : ResultCode) : (s.complete r).events = s.events.setCmdDone := rfl
@[simp] theorem complete_pins (r : ResultCode) : (s.complete r).pins = s.pins := rfl
@[simp] theorem complete_memory (r : ResultCode) : (s.complete r).memory = s.memory := rfl
@[simp] theorem complete_draws (r : ResultCode) : (s.complete r).draws = s.draws := rfl

/-! drive -/
@[simp] theorem drive_pending (p : CommandPins) : (s.drive p).pending = s.pending := rfl
@[simp] theorem drive_resetLow (p : CommandPins) : (s.drive p).resetLow = s.resetLow := rfl
@[simp] theorem drive_bus (p : CommandPins) : (s.drive p).bus = s.bus := rfl
@[simp] theorem drive_clock (p : CommandPins) : (s.drive p).clock = s.clock := rfl
@[simp] theorem drive_port (p : CommandPins) : (s.drive p).port = s.port := rfl
@[simp] theorem drive_streams (p : CommandPins) : (s.drive p).streams = s.streams := rfl
@[simp] theorem drive_streamFlags (p : CommandPins) : (s.drive p).streamFlags = s.streamFlags := rfl
@[simp] theorem drive_pool (p : CommandPins) : (s.drive p).pool = s.pool := rfl
@[simp] theorem drive_post (p : CommandPins) : (s.drive p).post = s.post := rfl
@[simp] theorem drive_seq (p : CommandPins) : (s.drive p).seq = s.seq := rfl
@[simp] theorem drive_startUp (p : CommandPins) : (s.drive p).startUp = s.startUp := rfl
@[simp] theorem drive_startClose (p : CommandPins) : (s.drive p).startClose = s.startClose := rfl
@[simp] theorem drive_timing (p : CommandPins) : (s.drive p).timing = s.timing := rfl
@[simp] theorem drive_renewal (p : CommandPins) : (s.drive p).renewal = s.renewal := rfl
@[simp] theorem drive_engine (p : CommandPins) : (s.drive p).engine = s.engine := rfl
@[simp] theorem drive_events (p : CommandPins) : (s.drive p).events = s.events := rfl
@[simp] theorem drive_pins (p : CommandPins) : (s.drive p).pins = { s.pins with command := p } := rfl
@[simp] theorem drive_memory (p : CommandPins) : (s.drive p).memory = s.memory := rfl
@[simp] theorem drive_draws (p : CommandPins) : (s.drive p).draws = s.draws := rfl

/-! popDue -/
@[simp] theorem popDue_pending : (s.popDue).pending = s.pending := rfl
@[simp] theorem popDue_resetLow : (s.popDue).resetLow = s.resetLow := rfl
@[simp] theorem popDue_bus : (s.popDue).bus = s.bus := rfl
@[simp] theorem popDue_clock : (s.popDue).clock = s.clock := rfl
@[simp] theorem popDue_port : (s.popDue).port = s.port := rfl
@[simp] theorem popDue_streams : (s.popDue).streams = s.streams := rfl
@[simp] theorem popDue_streamFlags : (s.popDue).streamFlags = s.streamFlags := rfl
@[simp] theorem popDue_pool : (s.popDue).pool = s.pool := rfl
@[simp] theorem popDue_post : (s.popDue).post = s.post := rfl
@[simp] theorem popDue_seq : (s.popDue).seq =
    { s.seq with due := s.seq.due.tail, resetCloseAll := s.seq.resetCloseAll.map fun ahead => ahead - 1 } := rfl
@[simp] theorem popDue_startUp : (s.popDue).startUp = s.startUp := rfl
@[simp] theorem popDue_startClose : (s.popDue).startClose = s.startClose := rfl
@[simp] theorem popDue_timing : (s.popDue).timing = s.timing := rfl
@[simp] theorem popDue_renewal : (s.popDue).renewal = s.renewal := rfl
@[simp] theorem popDue_engine : (s.popDue).engine = s.engine := rfl
@[simp] theorem popDue_events : (s.popDue).events = s.events := rfl
@[simp] theorem popDue_pins : (s.popDue).pins = s.pins := rfl
@[simp] theorem popDue_memory : (s.popDue).memory = s.memory := rfl
@[simp] theorem popDue_draws : (s.popDue).draws = s.draws := rfl

end Sys2Proof.Laws
end

