-- ==== Sys2Proof/Laws/Frames.lean ====
section
/-! SUPPORT. What the shared operations and the same-event consequences never touch: the part of the state
that Safety.frozen names. One lemma per operation; settle_frozen and finish_frozen say it of an event. -/

namespace Sys2Proof.Laws

open Sys2Proof.Machine Sys2Proof.Safety

variable (s : State)

/-! ### Updates -/

@[simp] theorem withBus_frozen (b : Bus) : frozen (s.withBus b) = frozen s := rfl
@[simp] theorem withPool_frozen (p : Pool) : frozen (s.withPool p) = frozen s := rfl
@[simp] theorem withPost_frozen (p : PostQueue) : frozen (s.withPost p) = frozen s := rfl
@[simp] theorem withEngine_frozen (e : Engine) : frozen (s.withEngine e) = frozen s := rfl
@[simp] theorem mapEngine_frozen (f : Engine → Engine) : frozen (s.mapEngine f) = frozen s := rfl
@[simp] theorem setStream_frozen (n : StreamId) (c : Stream) : frozen (s.setStream n c) = frozen s := rfl
@[simp] theorem setFlags_frozen (n : StreamId) (x : StreamFlags) : frozen (s.setFlags n x) = frozen s := rfl
@[simp] theorem mapFlags_frozen (n : StreamId) (f : StreamFlags → StreamFlags) : frozen (s.mapFlags n f) = frozen s := rfl
@[simp] theorem setSlot_frozen (k : SlotId) (x : Slot) : frozen (s.setSlot k x) = frozen s := rfl
@[simp] theorem own_frozen (k : SlotId) (o : Owner) : frozen (s.own k o) = frozen s := rfl
@[simp] theorem release_frozen (k : SlotId) : frozen (s.release k) = frozen s := rfl
@[simp] theorem fillSlot_frozen (k : SlotId) (l : Line) : frozen (s.fillSlot k l) = frozen s := rfl
@[simp] theorem setBank_frozen (b : BankId) (r : Bank) : frozen (s.setBank b r) = frozen s := rfl
@[simp] theorem freeBus_frozen : frozen s.freeBus = frozen s := rfl
@[simp] theorem popDue_frozen : frozen s.popDue = frozen s := rfl
@[simp] theorem complete_frozen (r : ResultCode) : frozen (s.complete r) = frozen s := rfl
@[simp] theorem stayExecuting_frozen (c : LongCommand) (p : Params) : frozen (s.stayExecuting c p) = frozen s := rfl
@[simp] theorem startRenewal_frozen : frozen s.startRenewal = frozen s := rfl
@[simp] theorem endResetting_frozen : frozen s.endResetting = frozen s := rfl
@[simp] theorem withdrawEngineClaim_frozen : frozen s.withdrawEngineClaim = frozen s := rfl
@[simp] theorem recordOwner_frozen (p : Fin 10) (q : Request) : frozen (s.recordOwner p q) = frozen s := rfl

@[simp] theorem addDue_frozen (b : BankId) (st : BankStep) : frozen (s.addDue b st) = frozen s := by
  unfold State.addDue; split <;> rfl

/-- A fold of updates that each keep a part keeps it. -/
theorem foldl_keeps {α β : Type} (part : State → β) (f : State → α → State)
    (h : ∀ s x, part (f s x) = part s) : ∀ (l : List α) (s : State), part (l.foldl f s) = part s
  | [], _ => rfl
  | x :: xs, s => (foldl_keeps part f h xs (f s x)).trans (h s x)

@[simp] theorem foldl_release_frozen (l : List SlotId) : frozen (l.foldl State.release s) = frozen s :=
  foldl_keeps frozen State.release (fun _ _ => rfl) l s

/-! ### Posting -/

@[simp] theorem patchEntry_frozen (line : Nat) (mask : ByteMask) (bytes : Line) (e : ReadEntry) :
    frozen (s.patchEntry line mask bytes e) = frozen s := by unfold State.patchEntry; split <;> rfl

@[simp] theorem patchFilled_frozen (line : Nat) (mask : ByteMask) (bytes : Line) :
    frozen (s.patchFilled line mask bytes) = frozen s :=
  foldl_keeps frozen _ (fun s e => patchEntry_frozen s line mask bytes e) _ s

@[simp] theorem mergePost_frozen (e : PostEntry) (line : Nat) (mask : ByteMask) (k : SlotId) :
    frozen (s.mergePost e line mask k) = frozen s := by simp [State.mergePost]

@[simp] theorem appendPost_frozen (line : Nat) (mask : ByteMask) (k : SlotId) :
    frozen (s.appendPost line mask k) = frozen s := by simp [State.appendPost]

/-- Everything an acceptance can do: it merges into the WAITING entry for the line, or appends a new entry
to a queue that is not full (R76). -/
theorem acceptPost_cases {s t : State} {line : Nat} {mask : ByteMask} {k : SlotId}
    (h : s.acceptPost line mask k = some t) :
    (∃ e, s.post.waitingFor line = some e ∧ t = s.mergePost e line mask k) ∨
      (s.post.waitingFor line = none ∧ s.post.full = false ∧ t = s.appendPost line mask k) := by
  unfold State.acceptPost at h
  split at h
  · next e he => exact .inl ⟨e, he, (Option.some.inj h).symm⟩
  · next hn =>
    split at h
    · cases h
    · next hf => exact .inr ⟨hn, by simpa using hf, (Option.some.inj h).symm⟩

theorem acceptPost_frozen {s t : State} {line : Nat} {mask : ByteMask} {k : SlotId}
    (h : s.acceptPost line mask k = some t) : frozen t = frozen s := by
  rcases acceptPost_cases h with ⟨e, _, rfl⟩ | ⟨_, _, rfl⟩ <;> simp

@[simp] theorem postAssembly_frozen (n : StreamId) (w : WriteStream) (a : Assembly) (x y : WriteState) :
    frozen (s.postAssembly n w a x y) = frozen s := by
  unfold State.postAssembly
  split
  · next t h => simp [acceptPost_frozen h]
  · simp

@[simp] theorem placeByte_frozen (n : StreamId) (w : WriteStream) (a : Assembly) (v : Byte) :
    frozen (s.placeByte n w a v) = frozen s := by
  unfold State.placeByte
  dsimp only
  split
  · split <;> simp
  · split <;> simp

@[simp] theorem grantAssembly_frozen (n : StreamId) (w : WriteStream) (k : SlotId) :
    frozen (s.grantAssembly n w k) = frozen s := by
  unfold State.grantAssembly
  dsimp only
  split <;> simp

@[simp] theorem finishDrain_frozen (n : StreamId) (w : WriteStream) (c : LongCommand) (p : Params) :
    frozen (s.finishDrain n w c p) = frozen s := by simp [State.finishDrain]

/-! ### Read streams -/

@[simp] theorem discardFetch_frozen (line : Nat) (k : SlotId) : frozen (s.discardFetch line k) = frozen s := rfl

@[simp] theorem releaseEntry_frozen (e : ReadEntry) : frozen (s.releaseEntry e) = frozen s := by
  unfold State.releaseEntry; split <;> simp

@[simp] theorem releaseEntries_frozen (es : List ReadEntry) : frozen (s.releaseEntries es) = frozen s :=
  foldl_keeps frozen _ (fun s e => releaseEntry_frozen s e) es s

@[simp] theorem advanceRead_frozen (n : StreamId) (r : ReadStream) : frozen (s.advanceRead n r) = frozen s := by
  unfold State.advanceRead
  split
  · split <;> simp
  · simp

@[simp] theorem deliver_frozen (n : StreamId) (r : ReadStream) : frozen (s.deliver n r) = frozen s := by
  simp [State.deliver]

@[simp] theorem entryInFlight_frozen (n : StreamId) (k : SlotId) : frozen (s.entryInFlight n k) = frozen s := by
  unfold State.entryInFlight; split <;> simp

@[simp] theorem answerWaitingRead_frozen (n : StreamId) : frozen (s.answerWaitingRead n) = frozen s := by
  unfold State.answerWaitingRead
  split
  · split
    · split <;> simp
    · rfl
    · rfl
  · rfl

@[simp] theorem entryReturn_frozen (n : StreamId) (k : SlotId) (l : Line) :
    frozen (s.entryReturn n k l) = frozen s := by
  unfold State.entryReturn; split <;> simp

/-! ### The Move Engine -/

@[simp] theorem endChunk_frozen (n : Nat) : frozen (s.endChunk n) = frozen s := by
  unfold State.endChunk; split <;> simp

@[simp] theorem buildAndPost_frozen (j : ActiveJob) (c : Chunk) (k : SlotId) :
    frozen (s.buildAndPost j c k) = frozen s := by
  unfold State.buildAndPost
  dsimp only
  split
  · next t h => simp [acceptPost_frozen h]
  · simp

@[simp] theorem examine_frozen (j : ActiveJob) (a : Nat) (p m : Byte) (c : StopCondition) (k : SlotId) :
    frozen (s.examine j a p m c k) = frozen s := by
  unfold State.examine
  dsimp only
  split <;> rfl

@[simp] theorem compareLines_frozen (j : ActiveJob) (a b : Nat) (x y : SlotId) :
    frozen (s.compareLines j a b x y) = frozen s := by
  unfold State.compareLines
  dsimp only
  split <;> rfl

@[simp] theorem endJob_frozen (j : ActiveJob) : frozen (s.endJob j) = frozen s := by simp [State.endJob]

@[simp] theorem bufferReturn_frozen (k : SlotId) (l : Line) : frozen (s.bufferReturn k l) = frozen s := rfl

/-! ### The Sequencer -/

@[simp] theorem tellRequester_frozen (p : Fin 10) (q : Request) : frozen (s.tellRequester p q) = frozen s := by
  unfold State.tellRequester
  split
  · simp
  · split <;> simp

@[simp] theorem joinBurst_frozen (b : BankId) : frozen (s.withSeq (s.seq.joinBurst b)) = frozen s := by
  unfold Sequencer.joinBurst; split <;> rfl

@[simp] theorem setOut_frozen (b : BankId) (row : Nat) : frozen (s.setOut b row) = frozen s := by
  unfold State.setOut
  split
  · split
    · rfl
    · split <;> simp
  · simp
  all_goals rfl

@[simp] theorem grantRequest_frozen (p : Fin 10) (q : Request) : frozen (s.grantRequest p q) = frozen s := by
  simp [State.grantRequest]

@[simp] theorem releaseBank_frozen (b : BankId) : frozen (s.releaseBank b) = frozen s := by
  unfold State.releaseBank
  dsimp only
  split <;> simp

@[simp] theorem scheduleBurst_frozen : frozen s.scheduleBurst = frozen s := by
  unfold State.scheduleBurst
  split
  · exact addDue_frozen s _ _
  · rfl
  · rfl

@[simp] theorem orderReady_frozen (b : State) : frozen (State.orderReady b s) = frozen s := rfl
@[simp] theorem orderDue_frozen (b : State) : frozen (State.orderDue b s) = frozen s := rfl

@[simp] theorem placeCloseAll_frozen (b : State) : frozen (State.placeCloseAll b s) = frozen s := by
  unfold State.placeCloseAll; split <;> rfl

/-! ### Grants -/

@[simp] theorem grantRead_frozen (n : StreamId) (k : SlotId) : frozen (s.grantRead n k) = frozen s := by
  unfold State.grantRead
  split
  · split <;> rfl
  · rfl
  · rfl

@[simp] theorem grantWrite_frozen (n : StreamId) (k : SlotId) : frozen (s.grantWrite n k) = frozen s := by
  unfold State.grantWrite
  split
  · split <;> simp
  · rfl
  · rfl

@[simp] theorem grantDest_frozen (k : SlotId) : frozen (s.grantDest k) = frozen s := by
  unfold State.grantDest
  split
  · split <;> rfl
  · rfl

@[simp] theorem takeSlot_frozen (c : Fin 9) (x : Claim) (k : SlotId) : frozen (s.takeSlot c x k) = frozen s := by
  unfold State.takeSlot
  split
  · split <;> simp
  · split <;> simp
  · rfl
  · simp

@[simp] theorem posterAccepted_frozen (o : Fin 9) : frozen (s.posterAccepted o) = frozen s := by
  unfold State.posterAccepted
  split
  · split <;> rfl
  · split <;> simp

theorem takeHeld_frozen {s t : State} {o : Fin 9} (h : s.takeHeld o = some t) : frozen t = frozen s := by
  unfold State.takeHeld at h
  split at h
  · split at h
    · next u hu => rw [← Option.some.inj h]; simp [acceptPost_frozen hu]
    · cases h
  · cases h

/-! ### The consequences -/

/-- An examination in its turn is an examination. -/
theorem examineInTurn_scan {s t : State} (h : examineInTurn s = some t) : scanExamination s = some t := by
  unfold examineInTurn at h
  split at h
  · cases h
  · exact h

theorem scanExamination_frozen {s t : State} (h : scanExamination s = some t) : frozen t = frozen s := by
  unfold scanExamination at h
  repeat' split at h
  all_goals first | (cases h; done) | (rw [← Option.some.inj h]; first | rfl | simp)

/-- Every consequence of an event keeps the frozen part. -/
theorem settleActions_frozen {a : State → Option State} (ha : a ∈ settleActions) {s t : State}
    (h : a s = some t) : frozen t = frozen s := by
  simp only [settleActions, List.mem_cons, List.not_mem_nil, or_false] at ha
  rcases ha with rfl | rfl | rfl | rfl | rfl | rfl | rfl | rfl | rfl | rfl | rfl | rfl | rfl | rfl
  · unfold syncClaims at h
    repeat' split at h
    all_goals first | (cases h; done) | (rw [← Option.some.inj h]; rfl)
  · unfold slotGrant at h
    repeat' split at h
    all_goals first | (cases h; done) | (rw [← Option.some.inj h]; first | rfl | simp)
  · obtain ⟨o, _, ho⟩ := List.exists_of_findSome?_eq_some h
    exact takeHeld_frozen ho
  · unfold drainComplete at h
    repeat' split at h
    all_goals first | (cases h; done) | (rw [← Option.some.inj h]; rfl)
  · unfold jobEnd at h
    repeat' split at h
    all_goals first | (cases h; done) | (rw [← Option.some.inj h]; first | rfl | simp)
  · unfold jobStart at h
    repeat' split at h
    all_goals first | (cases h; done) | (rw [← Option.some.inj h]; rfl)
  · unfold destinationLineBuild at h
    repeat' split at h
    all_goals first | (cases h; done) | (rw [← Option.some.inj h]; first | rfl | simp)
  · unfold engineRequest at h
    repeat' split at h
    all_goals first | (cases h; done) | (rw [← Option.some.inj h]; rfl)
  · exact scanExamination_frozen (examineInTurn_scan h)
  · unfold compareChunk at h
    repeat' split at h
    all_goals first | (cases h; done) | (rw [← Option.some.inj h]; first | rfl | simp)
  · unfold renewalStart at h
    repeat' split at h
    all_goals first | (cases h; done) | (rw [← Option.some.inj h]; rfl)
  · unfold requestGrant at h
    repeat' split at h
    all_goals first | (cases h; done) | (rw [← Option.some.inj h]; first | rfl | simp)
  · unfold resettingEnd at h
    repeat' split at h
    all_goals first | (cases h; done) | (rw [← Option.some.inj h]; rfl)
  · unfold resetCallSatisfied at h
    repeat' split at h
    all_goals first | (cases h; done) | (rw [← Option.some.inj h]; rfl)

end Sys2Proof.Laws
end

