-- ==== Sys2Proof/Laws/Settle.lean ====
section
/-! SUPPORT. Running the consequences of an event: what each consequence keeps, all of them keep. -/

namespace Sys2Proof.Laws

open Sys2Proof.Machine Sys2Proof.Safety

/-- One consequence comes from one of the actions. -/
theorem settleStep_action {s t : State} (h : settleStep s = some t) : ∃ a ∈ settleActions, a s = some t :=
  List.exists_of_findSome?_eq_some h

/-- The inversion of one consequence: a property that every action keeps. -/
theorem settleLoop_induct (P : State → Prop)
    (h : ∀ a ∈ settleActions, ∀ s t, a s = some t → P s → P t) : ∀ k s, P s → P (settleLoop k s)
  | 0, _, hs => hs
  | k + 1, s, hs => by
    unfold settleLoop
    split
    · next t ht =>
      obtain ⟨a, ha, hat⟩ := settleStep_action ht
      exact settleLoop_induct P h k t (h a ha s t hat hs)
    · exact hs

/-- What every action keeps, the consequences of an event keep. -/
theorem settle_induct (P : State → Prop) (h : ∀ a ∈ settleActions, ∀ s t, a s = some t → P s → P t)
    {s : State} (hs : P s) : P s.settle := settleLoop_induct P h _ s hs

/-- A state with no consequence to run is its own end. -/
theorem settle_of_quiet {s : State} (h : settleStep s = none) : s.settle = s := by
  unfold State.settle
  rw [show Config.settleFuel = 4095 + 1 from rfl]
  unfold settleLoop
  rw [h]

/-- The consequences of an event keep the frozen part. -/
@[simp] theorem settle_frozen (s : State) : frozen s.settle = frozen s :=
  settle_induct (fun t => frozen t = frozen s)
    (fun _ ha _ _ ht hs => (settleActions_frozen ha ht).trans hs) rfl

/-- The end of an event keeps the frozen part. -/
@[simp] theorem finish_frozen (b s : State) : frozen (State.finish b s) = frozen s := by
  simp [State.finish]

/-- A consequence as an event of its own keeps the frozen part. -/
theorem consequence_frozen {a : State → Option State} (ha : a ∈ settleActions) (s : State) :
    frozen (consequence a s) = frozen s := by
  unfold consequence
  split
  · next t ht => rw [finish_frozen, settleActions_frozen ha ht]
  · rfl

/-! ### Order -/

theorem mem_insertByKey {α : Type} (key : α → Nat) (x y : α) :
    ∀ l : List α, y ∈ insertByKey key x l ↔ y = x ∨ y ∈ l
  | [] => by simp [insertByKey]
  | z :: zs => by
    unfold insertByKey
    split
    · simp
    · simp only [List.mem_cons, mem_insertByKey key x y zs]
      tauto

/-- Putting a list in order keeps its members. -/
@[simp] theorem mem_sortByKey {α : Type} (key : α → Nat) (y : α) : ∀ l : List α, y ∈ sortByKey key l ↔ y ∈ l
  | [] => by simp [sortByKey]
  | z :: zs => by simp [sortByKey, mem_insertByKey, mem_sortByKey key y zs]

@[simp] theorem mem_sortAfter {α : Type} (n : Nat) (key : α → Nat) (y : α) (l : List α) :
    y ∈ sortAfter n key l ↔ y ∈ l := by
  rw [sortAfter, List.mem_append, mem_sortByKey, ← List.mem_append, List.take_append_drop]

@[simp] theorem length_insertByKey {α : Type} (key : α → Nat) (x : α) :
    ∀ l : List α, (insertByKey key x l).length = l.length + 1
  | [] => rfl
  | z :: zs => by
    unfold insertByKey
    split
    · rfl
    · simp [length_insertByKey key x zs]

@[simp] theorem length_sortByKey {α : Type} (key : α → Nat) : ∀ l : List α, (sortByKey key l).length = l.length
  | [] => rfl
  | z :: zs => by simp [sortByKey, length_sortByKey key zs]

@[simp] theorem length_sortAfter {α : Type} (n : Nat) (key : α → Nat) (l : List α) :
    (sortAfter n key l).length = l.length := by
  rw [sortAfter, List.length_append, length_sortByKey, ← List.length_append, List.take_append_drop]

end Sys2Proof.Laws
end

