-- ==== Sys2Proof/Laws/Access.lean ====
section
/-! SUPPORT. What a row answers, once for each kind of row: the bus accesses, the commands, and the events
that run while /RESET is high. -/

namespace Sys2Proof.Laws

open Sys2Proof.Machine Sys2Proof.Safety

variable {s : State}

/-- A row that is a bus access answers the state after that access. -/
theorem exec_access {i : Instr} {p : Position} {a : Access} (h : busAccessOf i = some (p, a)) (s : State) :
    exec i s = .next (busAccess p a s) := by
  cases i <;> simp only [busAccessOf, Option.some.injEq, Prod.mk.injEq, reduceCtorEq] at h <;>
    obtain ⟨rfl, rfl⟩ := h <;> rfl

/-- While /RESET is low or a cycle is stretched an access does nothing. -/
theorem busAccess_heldOff (p : Position) (a : Access) (h : s.accessCanBegin = false) : busAccess p a s = s := by
  cases a <;> simp [busAccess, busRead, busWrite, h]

theorem accessCanBegin_eq_false (h : s.resetLow = true ∨ s.waitAsserted = true) : s.accessCanBegin = false := by
  unfold State.accessCanBegin
  unfold State.waitAsserted at h
  rcases h with h | h
  · simp [h]
  · split at h <;> simp_all

/-- A command written while one can be taken runs on the captured parameter block. -/
theorem busWrite_command (h : TakesCommand s) (code : Byte) :
    busWrite .command code s = runCommand code s.port.param (answeredWrite s) := by
  simp [busWrite, h.1, registerWrite, commandWrite, State.withBus, h.2, answeredWrite]

/-- The stream number of a parameter block whose PARAM0 is a stream's. -/
theorem stream_of_param {p : Params} {n : StreamId} (h : p[0].toNat = n.val) : Params.stream p = some n := by
  have := n.isLt
  simp [Params.stream, Params.byteAt, h]

theorem stream_none {p : Params} (h : 8 ≤ p[0].toNat) : Params.stream p = none := by
  exact dif_neg (Nat.not_lt.mpr h)

/-- Completing a command is what Safety says of it. -/
theorem complete_eq (s : State) (r : ResultCode) : s.complete r = completedWith s r := rfl

theorem isResetting_eq_false (h : s.port.state ≠ .resetting) : s.isResetting = false := by
  unfold State.isResetting
  split <;> simp_all

/-- While /RESET is high an event runs. -/
theorem whileRunning_high {f : State → State} (h : s.resetLow = false) : whileRunning f s = f s := by
  simp [whileRunning, h]

/-- While /RESET is low an event does nothing. -/
theorem whileRunning_low {f : State → State} (h : s.resetLow = true) : whileRunning f s = s := by
  simp [whileRunning, h]

/-- A consequence that has something to do, as an event of its own. -/
theorem consequence_some {a : State → Option State} {t : State} (h : a s = some t) :
    consequence a s = State.finish s t := by
  simp [consequence, h]

/-- A consequence with nothing to do changes nothing. -/
theorem consequence_none {a : State → Option State} (h : a s = none) : consequence a s = s := by
  simp [consequence, h]

end Sys2Proof.Laws
end

