-- ==== Sys2Proof/Laws/Operations.lean ====
section
/-! SUPPORT. Everything that the shared operations of the Post Queue, the pool and the bank table can do, one
lemma for each, to cite in place of an unfolding. -/

namespace Sys2Proof.Laws

open Sys2Proof.Machine

variable {s t : State}

/-! ### The pool -/

/-- An entry let go of is released, or passes to DISCARD with its fetch marked (R44). -/
theorem releaseEntry_cases (s : State) (e : ReadEntry) :
    s.releaseEntry e = s.release e.slot ∨
      (e.state = .inFlight ∧ s.releaseEntry e = s.discardFetch e.line e.slot) := by
  unfold State.releaseEntry
  split
  · exact .inl rfl
  · exact .inl rfl
  · next h => exact .inr ⟨h, rfl⟩

/-- Letting entries go changes the pool and the bank table alone. -/
theorem releaseEntries_keeps (es : List ReadEntry) (s : State) :
    s.releaseEntries es = { s with
      pool := { s.pool with slots := (s.releaseEntries es).pool.slots }
      seq := { s.seq with banks := (s.releaseEntries es).seq.banks } } := by
  induction es generalizing s with
  | nil => rfl
  | cons e es ih =>
    have step : s.releaseEntries (e :: es) = (s.releaseEntry e).releaseEntries es := rfl
    rw [step, ih]
    rcases releaseEntry_cases s e with h | ⟨_, h⟩ <;> rw [h] <;> rfl

/-- A discard mark leaves a bank's state and whether it is owned. -/
theorem markDiscard_keeps (k : SlotId) (r : Bank) :
    (Bank.markDiscard k r).state = r.state ∧ (Bank.markDiscard k r).owned = r.owned ∧
      (Bank.markDiscard k r).openRow = r.openRow ∧ (Bank.markDiscard k r).left = r.left := by
  unfold Bank.markDiscard
  split
  · next h =>
    split
    · simp [Bank.owned, h]
    · exact ⟨rfl, rfl, rfl, rfl⟩
  · exact ⟨rfl, rfl, rfl, rfl⟩

/-! ### The Post Queue -/

/-- Patch-on-accept changes slots alone. -/
theorem patchFilled_keeps (s : State) (line : Nat) (mask : ByteMask) (bytes : Line) :
    s.patchFilled line mask bytes =
      { s with pool := { s.pool with slots := (s.patchFilled line mask bytes).pool.slots } } := by
  unfold State.patchFilled
  generalize s.streams.toList.flatMap Stream.entries = es
  induction es generalizing s with
  | nil => rfl
  | cons e es ih =>
    rw [List.foldl_cons, ih]
    unfold State.patchEntry
    split <;> rfl

/-- An acceptance changes the entries and slots alone. -/
theorem acceptPost_keeps {line : Nat} {mask : ByteMask} {k : SlotId} (h : s.acceptPost line mask k = some t) :
    t = { s with
      pool := { s.pool with slots := t.pool.slots }
      post := { s.post with entries := t.post.entries } } := by
  rcases acceptPost_cases h with ⟨e, _, rfl⟩ | ⟨_, _, rfl⟩
  · unfold State.mergePost
    rw [patchFilled_keeps]
    rfl
  · unfold State.appendPost
    rw [patchFilled_keeps]
    rfl

/-- The entries after an acceptance (R76). -/
theorem acceptPost_entries {line : Nat} {mask : ByteMask} {k : SlotId} (h : s.acceptPost line mask k = some t) :
    (∃ e, s.post.waitingFor line = some e ∧ t.post = s.post.merge line mask) ∨
      (s.post.waitingFor line = none ∧ s.post.full = false ∧ t.post = s.post.append line mask k) := by
  rcases acceptPost_cases h with ⟨e, he, rfl⟩ | ⟨hn, hf, rfl⟩
  · refine .inl ⟨e, he, ?_⟩
    unfold State.mergePost
    rw [patchFilled_keeps]
    rfl
  · refine .inr ⟨hn, hf, ?_⟩
    unfold State.appendPost
    rw [patchFilled_keeps]
    rfl

/-- What posting an assembly can do (R62). -/
theorem postAssembly_cases (s : State) (n : StreamId) (w : WriteStream) (a : Assembly) (x y : WriteState) :
    (∃ t, s.acceptPost a.line a.mask a.slot = some t ∧
      s.postAssembly n w a x y =
        t.setStream n (.write { w with lingerTimer := none, assembly := none, state := x })) ∨
    (s.acceptPost a.line a.mask a.slot = none ∧
      s.postAssembly n w a x y = s.setStream n
        (.write { w with lingerTimer := none, assembly := some { a with frozen := true }, state := y })) := by
  unfold State.postAssembly
  split
  · next t h => exact .inl ⟨t, h, rfl⟩
  · next h => exact .inr ⟨h, rfl⟩

/-! ### The bank table -/

/-- What placing a CLOSE ALL can do: one called for since `before` stands behind every step due; else nothing
changes (R106). -/
theorem placeCloseAll_cases (before s : State) :
    (before.seq.resetCloseAll = none ∧ s.seq.resetCloseAll ≠ none ∧
      State.placeCloseAll before s = { s with seq := { s.seq with resetCloseAll := some s.seq.due.length } }) ∨
    ((before.seq.resetCloseAll ≠ none ∨ s.seq.resetCloseAll = none) ∧ State.placeCloseAll before s = s) := by
  unfold State.placeCloseAll
  split
  · next hb hs => exact .inl ⟨hb, by simp [hs], rfl⟩
  · next hs => exact .inr ⟨.inr hs, rfl⟩
  · next hb => exact .inr ⟨.inl (by simp [hb]), rfl⟩

/-- A test holds of every record of the bank table when it holds of every bank. -/
theorem banks_all (q : Sequencer) (p : Bank → Bool) :
    q.banks.toList.all p = true ↔ ∀ b : BankId, p q.banks[b] = true := by
  rw [List.all_eq_true]
  refine ⟨fun h b => h _ (by simp), fun h x hx => ?_⟩
  obtain ⟨i, hi, rfl⟩ := List.mem_iff_getElem.mp hx
  simpa using h ⟨i, by simpa using hi⟩

/-- A test holds of some record of the bank table when it holds of some bank. -/
theorem banks_any (q : Sequencer) (p : Bank → Bool) :
    q.banks.toList.any p = true ↔ ∃ b : BankId, p q.banks[b] = true := by
  rw [List.any_eq_true]
  refine ⟨fun ⟨x, hx, hp⟩ => ?_, fun ⟨b, hb⟩ => ⟨_, by simp, hb⟩⟩
  obtain ⟨i, hi, rfl⟩ := List.mem_iff_getElem.mp hx
  exact ⟨⟨i, by simpa using hi⟩, by simpa using hp⟩

/-- What allClosed says of each bank. -/
theorem allClosed_iff (q : Sequencer) : q.allClosed = true ↔ ∀ b : BankId, q.banks[b].state = .closed := by
  rw [Sequencer.allClosed, banks_all]
  simp only [decide_eq_true_eq]

/-- What anyOwner, answering no, says of each bank. -/
theorem anyOwner_eq_false_iff (q : Sequencer) : q.anyOwner = false ↔ ∀ b : BankId, q.banks[b].owner = none := by
  rw [← Bool.not_eq_true, Sequencer.anyOwner, banks_any]
  simp [Bank.owned]

/-- A step that becomes due stands at the end, unless its bank has one waiting. -/
theorem addDue_cases (s : State) (b : BankId) (x : BankStep) :
    (s.seq.hasDue b = true ∧ s.addDue b x = s) ∨
      (s.seq.hasDue b = false ∧ s.addDue b x = { s with seq := { s.seq with due := s.seq.due ++ [(b, x)] } }) := by
  unfold State.addDue
  split
  · next h => exact .inl ⟨h, rfl⟩
  · next h => exact .inr ⟨by simpa using h, rfl⟩

/-- Setting out for a row changes the burst order and the steps due alone (R111). -/
theorem setOut_keeps (s : State) (b : BankId) (row : Nat) :
    s.setOut b row = { s with seq := { s.seq with
      burstOrder := (s.setOut b row).seq.burstOrder, due := (s.setOut b row).seq.due } } := by
  unfold State.setOut
  split
  · split
    · rfl
    · split
      · unfold Sequencer.joinBurst
        split <;> rfl
      · rcases addDue_cases s b .closeRow with ⟨_, h⟩ | ⟨_, h⟩ <;> rw [h]
  · rcases addDue_cases s b .openRow with ⟨_, h⟩ | ⟨_, h⟩ <;> rw [h]
  all_goals rfl

/-- A release leaves the bank OPEN and unowned, and changes beside it the steps due alone (R115). -/
theorem releaseBank_keeps (s : State) (b : BankId) :
    s.releaseBank b = { s with seq := { s.seq with
      banks := s.seq.banks.set b.val
        { s.seq.banks[b] with state := .opened, owner := none, left := 0, closeDue := false }
      due := (s.releaseBank b).seq.due } } := by
  unfold State.releaseBank
  dsimp only
  split
  · rcases addDue_cases (s.setBank b { s.seq.banks[b] with state := .opened, owner := none, left := 0, closeDue := false })
      b .closeRow with ⟨_, h⟩ | ⟨_, h⟩ <;> rw [h] <;> rfl
  · rfl

end Sys2Proof.Laws
end

