-- ==== Sys2Proof/Laws/Grants.lean ====
section
/-! SUPPORT. The grant of a request: everything it does, as Safety.RequestGranted says it. -/

namespace Sys2Proof.Laws

open Sys2Proof.Machine Sys2Proof.Safety

/-- The first entry that a test holds of is changed, and no other. -/
theorem updateFirst_first {α : Type} (p : α → Bool) (f : α → α) (older newer : List α) (x : α)
    (before : ∀ y ∈ older, p y = false) (hx : p x = true) :
    updateFirst p f (older ++ x :: newer) = older ++ f x :: newer := by
  induction older with
  | nil => simp [updateFirst, hx]
  | cons a older ih => simp [updateFirst, before a (by simp), ih fun y hy => before y (by simp [hy])]

/-- The grant of one stream's fetch leaves every other stream. -/
theorem entryInFlight_other (s : State) (n m : StreamId) (k : SlotId) (h : n.val ≠ m.val) :
    (s.entryInFlight n k).streams[m] = s.streams[m] := by
  unfold State.entryInFlight
  split
  · simp only [State.setStream, Fin.getElem_fin]
    rw [Vector.getElem_set_ne _ _ h]
  · rfl
  · rfl

/-- The bank, having its owner recorded, and what it sets out with (R111, R115). -/
theorem recordOwner_setOut (s : State) (p : Fin 10) (q : Request) :
    let b := bankOf q.line
    let u := (s.recordOwner p q).setOut b (rowOf q.line)
    (s.seq.banks[b].state = .closed → s.seq.hasDue b = false →
      u.seq.due = s.seq.due ++ [(b, .openRow)] ∧ u.seq.burstOrder = s.seq.burstOrder) ∧
    (s.seq.banks[b].state = .opened → s.seq.hasDue b = false → s.seq.banks[b].openRow = some (rowOf q.line) →
      b ∉ s.seq.burstOrder → u.seq.burstOrder = s.seq.burstOrder ++ [b] ∧ u.seq.due = s.seq.due) ∧
    (s.seq.banks[b].state = .opened → s.seq.hasDue b = false → s.seq.banks[b].openRow ≠ some (rowOf q.line) →
      u.seq.due = s.seq.due ++ [(b, .closeRow)] ∧ u.seq.burstOrder = s.seq.burstOrder) ∧
    (s.seq.banks[b].state = .closing → u.seq.due = s.seq.due ∧ u.seq.burstOrder = s.seq.burstOrder) ∧
    (s.seq.hasDue b = true → u.seq.due = s.seq.due ∧ u.seq.burstOrder = s.seq.burstOrder) := by
  dsimp only
  have state : ((s.recordOwner p q).seq.banks[bankOf q.line]).state = (s.seq.banks[bankOf q.line]).state := by
    simp [State.recordOwner, State.setBank, State.withSeq, State.mapSeq]
  have row : ((s.recordOwner p q).seq.banks[bankOf q.line]).openRow = (s.seq.banks[bankOf q.line]).openRow := by
    simp [State.recordOwner, State.setBank, State.withSeq, State.mapSeq]
  have due : (s.recordOwner p q).seq.due = s.seq.due := rfl
  have order : (s.recordOwner p q).seq.burstOrder = s.seq.burstOrder := rfl
  have waits : (s.recordOwner p q).seq.hasDue = s.seq.hasDue := rfl
  refine ⟨fun h1 h2 => ?_, fun h1 h2 h3 h4 => ?_, fun h1 h2 h3 => ?_, fun h1 => ?_, fun h1 => ?_⟩
  · unfold State.setOut
    rw [state, h1]
    simp only [State.addDue, waits, h2]
    exact ⟨rfl, rfl⟩
  · unfold State.setOut
    rw [state, h1]
    simp only [waits, h2, row, h3, if_true, Sequencer.joinBurst, order, State.withSeq, Bool.false_eq_true, if_false]
    simp [h4, due]
  · unfold State.setOut
    rw [state, h1]
    simp only [waits, h2, row, h3, State.addDue, State.withSeq, due, order, Bool.false_eq_true, if_false, and_self]
  · unfold State.setOut
    rw [state, h1]
    exact ⟨rfl, rfl⟩
  · unfold State.setOut State.addDue
    rw [waits, h1]
    simp only [if_true]
    split <;> exact ⟨rfl, rfl⟩

/-- The grant of a request is what R110 and R111 say of it. -/
theorem grantRequest_granted (s : State) (p : Fin 10) (q : Request) : RequestGranted s p q (s.grantRequest p q) := by
  have keeps := setOut_keeps (s.recordOwner p q) (bankOf q.line) (rowOf q.line)
  obtain ⟨closed, sameRow, otherRow, closing, stepDue⟩ := recordOwner_setOut s p q
  obtain ⟨u, hu, streams, post, engine⟩ :
      ∃ u, (s.recordOwner p q).setOut (bankOf q.line) (rowOf q.line) = u ∧ u.streams = s.streams ∧
        u.post = s.post ∧ u.engine = s.engine :=
    ⟨_, rfl, by rw [keeps]; rfl, by rw [keeps]; rfl, by rw [keeps]; rfl⟩
  have seq : (s.grantRequest p q).seq = ((s.recordOwner p q).setOut (bankOf q.line) (rowOf q.line)).seq := by
    unfold State.grantRequest State.tellRequester
    split
    · unfold State.entryInFlight
      split <;> rfl
    · split <;> rfl
  rw [← seq] at closed sameRow otherRow closing stepDue
  refine ⟨?_, closed, sameRow, otherRow, closing, stepDue, ?_, ?_, ?_, ?_, ?_, ?_⟩
  · unfold State.grantRequest State.tellRequester
    split
    · unfold State.entryInFlight
      split <;> (simp only [State.setStream]; rw [keeps]; rfl)
    · split <;> (simp only [State.withPost, State.withEngine]; rw [keeps]; rfl)
  · intro n r hp hr
    have below : p.val < 8 := by omega
    have same : (⟨p.val, below⟩ : Fin 8) = n := Fin.ext hp
    have read : u.streams[n] = .read r := by rw [streams]; exact hr
    simp only [State.grantRequest, State.tellRequester, below, dif_pos, same, hu, State.entryInFlight, read]
    simp [State.setStream, ReadStream.passEntry]
  · intro n hp
    simp only [State.grantRequest, State.tellRequester, hu]
    split
    · rw [entryInFlight_other _ _ _ _ (by exact hp), streams]
    · split <;> simp only [State.withPost, State.withEngine, streams]
  · intro hp older newer e entries before waiting
    simp [State.grantRequest, State.tellRequester, hp, hu, post, State.withPost, PostQueue.retireOldest, entries]
    exact updateFirst_first _ _ _ _ _ (by simpa using before) (by simpa using waiting)
  · intro hp
    simp only [State.grantRequest, State.tellRequester, hu]
    split
    · unfold State.entryInFlight
      split <;> simp only [State.setStream, post]
    · simp only [State.withEngine, post]
  · intro hp k
    simp [State.grantRequest, State.tellRequester, hu, hp, engine, State.withEngine]
    cases s.engine.buffers[k.val] <;> simp
    split <;> rfl
  · intro hp
    have := p.isLt
    simp only [State.grantRequest, State.tellRequester, hu]
    split
    · unfold State.entryInFlight
      split <;> simp only [State.setStream, engine]
    · split
      · simp only [State.withPost, engine]
      · omega

end Sys2Proof.Laws
end

