-- ==== Sys2Proof/Laws/Memory.lean ====
section
/-! SUPPORT. The memory: reading after writing, the canonical form kept by every write, and what a store of a
line does to each byte. -/

namespace Sys2Proof.Laws

open Sys2Proof.Machine

/-! ### Canonical form -/

theorem wfFrom_mono {m : Memory} {low low' : Nat} (h : low' ≤ low) (hw : Memory.wfFrom low m = true) :
    Memory.wfFrom low' m = true := by
  cases m with
  | nil => rfl
  | cons c rest =>
    obtain ⟨k, v⟩ := c
    simp only [Memory.wfFrom, Bool.and_eq_true, decide_eq_true_eq, bne_iff_ne, ne_eq] at hw ⊢
    exact ⟨⟨by omega, hw.1.2⟩, hw.2⟩

/-- A byte written at or above `low` keeps the form from `low` on. -/
theorem write_wfFrom (a : Nat) (v : Byte) :
    ∀ (m : Memory) (low : Nat), low ≤ a → Memory.wfFrom low m = true → Memory.wfFrom low (Memory.write m a v) = true
  | [], low, ha, _ => by
    unfold Memory.write
    split
    · rfl
    · next hv => simp [Memory.wfFrom, ha, hv]
  | (k, w) :: rest, low, ha, hw => by
    have hw' := hw
    simp only [Memory.wfFrom, Bool.and_eq_true, decide_eq_true_eq, bne_iff_ne, ne_eq] at hw
    obtain ⟨⟨hk, hne⟩, hr⟩ := hw
    unfold Memory.write
    split
    · next hlt =>
      split
      · exact hw'
      · next hv =>
        simp only [Memory.wfFrom, Bool.and_eq_true, decide_eq_true_eq, bne_iff_ne, ne_eq]
        exact ⟨⟨ha, hv⟩, ⟨by omega, hne⟩, hr⟩
    · split
      · next hlt heq =>
        split
        · exact wfFrom_mono (by omega) hr
        · next hv =>
          simp only [Memory.wfFrom, Bool.and_eq_true, decide_eq_true_eq, bne_iff_ne, ne_eq]
          exact ⟨⟨ha, hv⟩, heq ▸ hr⟩
      · next hlt hne' =>
        simp only [Memory.wfFrom, Bool.and_eq_true, decide_eq_true_eq, bne_iff_ne, ne_eq]
        exact ⟨⟨hk, hne⟩, write_wfFrom a v rest (k + 1) (by omega) hr⟩

/-- Writing a byte keeps the canonical form. -/
theorem write_wf {m : Memory} (a : Nat) (v : Byte) (h : Memory.wf m = true) : Memory.wf (Memory.write m a v) = true :=
  write_wfFrom a v m 0 (Nat.zero_le a) h

/-- Storing a line keeps the canonical form. -/
theorem writeUpTo_wf {m : Memory} (line : Nat) (mask : ByteMask) (bytes : Line) (h : Memory.wf m = true) :
    ∀ k, Memory.wf (Memory.writeUpTo m line mask bytes k) = true
  | 0 => h
  | k + 1 => by
    unfold Memory.writeUpTo
    dsimp only
    split
    · split
      · exact write_wf _ _ (writeUpTo_wf line mask bytes h k)
      · exact writeUpTo_wf line mask bytes h k
    · exact writeUpTo_wf line mask bytes h k

theorem writeLine_wf {m : Memory} (line : Nat) (mask : ByteMask) (bytes : Line) (h : Memory.wf m = true) :
    Memory.wf (Memory.writeLine m line mask bytes) = true := writeUpTo_wf line mask bytes h 16

/-- Reset memory lists nothing and is canonical. -/
theorem reset_wf : Memory.wf State.reset.memory = true := rfl

/-! ### Reading -/

/-- Below every listed address, memory reads as blank. -/
theorem read_below {a : Nat} : ∀ (m : Memory) (low : Nat), a < low → Memory.wfFrom low m = true →
    Memory.read m a = Config.blankByte
  | [], _, _, _ => rfl
  | (k, v) :: rest, low, ha, hw => by
    simp only [Memory.wfFrom, Bool.and_eq_true, decide_eq_true_eq] at hw
    unfold Memory.read
    rw [if_neg (by omega)]
    exact read_below rest (k + 1) (by omega) hw.2

/-- Reading after writing one byte, from a canonical memory. -/
theorem read_write_from (a : Nat) (v : Byte) (b : Nat) : ∀ (m : Memory) (low : Nat), Memory.wfFrom low m = true →
    Memory.read (Memory.write m a v) b = if b = a then v else Memory.read m b
  | [], _, _ => by
    unfold Memory.write
    split
    · next hv => split <;> simp [Memory.read, hv]
    · by_cases hab : a = b
      · simp [Memory.read, hab]
      · simp [Memory.read, hab, Ne.symm hab]
  | (k, w) :: rest, low, hw => by
    have hw' := hw
    simp only [Memory.wfFrom, Bool.and_eq_true, decide_eq_true_eq, bne_iff_ne, ne_eq] at hw
    obtain ⟨⟨hk, hne⟩, hr⟩ := hw
    unfold Memory.write
    split
    · next hlt =>
      split
      · next hv =>
        split
        · next hba =>
          have : k ≠ b := by omega
          simp only [Memory.read, this, if_false]
          rw [read_below rest (k + 1) (by omega) hr, hv]
        · rfl
      · by_cases hba : b = a
        · simp [Memory.read, hba]
        · simp [Memory.read, hba, Ne.symm hba]
    · split
      · next hlt heq =>
        split
        · next hv =>
          by_cases hba : b = a
          · rw [if_pos hba, read_below rest (k + 1) (by omega) hr, hv]
          · have : k ≠ b := by omega
            simp [Memory.read, hba, this]
        · by_cases hba : b = a
          · simp [Memory.read, hba]
          · have : k ≠ b := by omega
            simp [Memory.read, hba, Ne.symm hba, this]
      · next hlt hne' =>
        by_cases hkb : k = b
        · have : b ≠ a := by omega
          simp [Memory.read, hkb, this]
        · simp only [Memory.read, hkb, if_false]
          exact read_write_from a v b rest (k + 1) hr

theorem read_write {m : Memory} (h : Memory.wf m = true) (a : Nat) (v : Byte) (b : Nat) :
    Memory.read (Memory.write m a v) b = if b = a then v else Memory.read m b :=
  read_write_from a v b m 0 h

/-- The store of the marked bytes below offset k changes exactly those bytes. -/
theorem read_writeUpTo {m : Memory} (h : Memory.wf m = true) (line : Nat) (mask : ByteMask) (bytes : Line)
    (b : Nat) : ∀ k, k ≤ 16 →
    Memory.read (Memory.writeUpTo m line mask bytes k) b =
      if hb : line ≤ b ∧ b < line + k ∧ b < line + 16 then
        (if mask.getLsbD (b - line) then bytes[b - line]'(by omega) else Memory.read m b)
      else Memory.read m b
  | 0, _ => by
    rw [dif_neg (by omega)]
    rfl
  | k + 1, hk => by
    have ih := read_writeUpTo h line mask bytes b k (by omega)
    unfold Memory.writeUpTo
    dsimp only
    rw [dif_pos (show k < 16 by omega)]
    by_cases hbk : b = line + k
    · have hsub : b - line = k := by omega
      rw [dif_pos (show line ≤ b ∧ b < line + (k + 1) ∧ b < line + 16 by omega)]
      rw [dif_neg (show ¬(line ≤ b ∧ b < line + k ∧ b < line + 16) by omega)] at ih
      split
      · next hm =>
        rw [read_write (writeUpTo_wf line mask bytes h k), if_pos hbk]
        simp only [hsub, hm, if_true]
      · next hm =>
        rw [ih]
        simp only [hsub]
        rw [if_neg hm]
    · have hsame : (line ≤ b ∧ b < line + (k + 1) ∧ b < line + 16) ↔ (line ≤ b ∧ b < line + k ∧ b < line + 16) := by
        omega
      have hread : Memory.read
          (if mask.getLsbD k then Memory.write (Memory.writeUpTo m line mask bytes k) (line + k) bytes[k]
            else Memory.writeUpTo m line mask bytes k) b
          = Memory.read (Memory.writeUpTo m line mask bytes k) b := by
        split
        · rw [read_write (writeUpTo_wf line mask bytes h k), if_neg hbk]
        · rfl
      rw [hread, ih]
      by_cases hr : line ≤ b ∧ b < line + k ∧ b < line + 16
      · rw [dif_pos hr, dif_pos (hsame.mpr hr)]
      · rw [dif_neg hr, dif_neg (fun x => hr (hsame.mp x))]

/-- The store of a line: a marked byte takes the slot's byte, every other address reads as before (R79). -/
theorem read_writeLine {m : Memory} (h : Memory.wf m = true) (line : Nat) (mask : ByteMask) (bytes : Line) (b : Nat) :
    Memory.read (Memory.writeLine m line mask bytes) b =
      if hb : line ≤ b ∧ b < line + 16 then
        (if mask.getLsbD (b - line) then bytes[b - line]'(by omega) else Memory.read m b)
      else Memory.read m b := by
  unfold Memory.writeLine
  rw [read_writeUpTo h line mask bytes b 16 (Nat.le_refl 16)]
  by_cases hb : line ≤ b ∧ b < line + 16
  · rw [dif_pos hb, dif_pos ⟨hb.1, hb.2, hb.2⟩]
  · rw [dif_neg hb, dif_neg (fun x => hb ⟨x.1, x.2.1⟩)]

end Sys2Proof.Laws
end

