-- ==== Sys2Proof/Laws/PerInstr.lean ====
section
/-! SUPPORT. Per constructor of Instr: where a row is a bus access, the row that the window names for that
access is the same access. -/

namespace Sys2Proof.Laws.AccessOfRow

open Sys2Proof

/-- The row named for the access of i is that access. -/
def Statement (i : Instr) : Prop :=
  ∀ (p : Position) (a : Access), busAccessOf i = some (p, a) → busAccessOf (rowOfAccess p a) = some (p, a)

/-- The row that a write of COMMAND is carries the code written. -/
theorem busAccessOf_commandOfCode : ∀ code : Byte, busAccessOf (commandOfCode code) = some (.command, .write code) := by
  decide +kernel

/-- The row named for any access is that access. -/
theorem busAccessOf_rowOfAccess (p : Position) (a : Access) : busAccessOf (rowOfAccess p a) = some (p, a) := by
  unfold rowOfAccess
  split
  all_goals first | rfl | exact busAccessOf_commandOfCode _ | (split <;> rfl)

theorem openRead : Statement .openRead := fun p a _ => busAccessOf_rowOfAccess p a
theorem openWrite : Statement .openWrite := fun p a _ => busAccessOf_rowOfAccess p a
theorem seek : Statement .seek := fun p a _ => busAccessOf_rowOfAccess p a
theorem flush : Statement .flush := fun p a _ => busAccessOf_rowOfAccess p a
theorem close : Statement .close := fun p a _ => busAccessOf_rowOfAccess p a
theorem queryStream : Statement .queryStream := fun p a _ => busAccessOf_rowOfAccess p a
theorem sync : Statement .sync := fun p a _ => busAccessOf_rowOfAccess p a
theorem submitJob : Statement .submitJob := fun p a _ => busAccessOf_rowOfAccess p a
theorem cancelJob : Statement .cancelJob := fun p a _ => busAccessOf_rowOfAccess p a
theorem takeCompletion : Statement .takeCompletion := fun p a _ => busAccessOf_rowOfAccess p a
theorem setTiming : Statement .setTiming := fun p a _ => busAccessOf_rowOfAccess p a
theorem memStart : Statement .memStart := fun p a _ => busAccessOf_rowOfAccess p a
theorem setClock : Statement .setClock := fun p a _ => busAccessOf_rowOfAccess p a
theorem badCommand (code : Byte) : Statement (.badCommand code) := fun p a _ => busAccessOf_rowOfAccess p a
theorem softReset (value : Byte) : Statement (.softReset value) := fun p a _ => busAccessOf_rowOfAccess p a
theorem dataPortRead (n : StreamId) : Statement (.dataPortRead n) := fun p a _ => busAccessOf_rowOfAccess p a
theorem dataPortWrite (n : StreamId) (value : Byte) : Statement (.dataPortWrite n value) := fun p a _ => busAccessOf_rowOfAccess p a
theorem eventPendingWrite (value : Byte) : Statement (.eventPendingWrite value) := fun p a _ => busAccessOf_rowOfAccess p a
theorem streamEventWrite (n : StreamId) (value : Byte) : Statement (.streamEventWrite n value) := fun p a _ => busAccessOf_rowOfAccess p a
theorem eventEnableWrite (value : Byte) : Statement (.eventEnableWrite value) := fun p a _ => busAccessOf_rowOfAccess p a
theorem streamEventEnableWrite (value : Byte) : Statement (.streamEventEnableWrite value) := fun p a _ => busAccessOf_rowOfAccess p a
theorem unmappedAccess (k : Fin 6) (access : Access) : Statement (.unmappedAccess k access) := fun p a _ => busAccessOf_rowOfAccess p a
theorem registerWrite (position : Position) (access : Access) : Statement (.registerWrite position access) := fun p a _ => busAccessOf_rowOfAccess p a
theorem strobeRemovedEarly : Statement .strobeRemovedEarly := fun p a _ => busAccessOf_rowOfAccess p a
theorem stretchTimerExpiry : Statement .stretchTimerExpiry := fun p a _ => busAccessOf_rowOfAccess p a
theorem lingerExpiry (n : StreamId) : Statement (.lingerExpiry n) := fun p a _ => busAccessOf_rowOfAccess p a
theorem rowAgeExpiry (b : BankId) : Statement (.rowAgeExpiry b) := fun p a _ => busAccessOf_rowOfAccess p a
theorem renewalIntervalExpiry : Statement .renewalIntervalExpiry := fun p a _ => busAccessOf_rowOfAccess p a
theorem settleEnd : Statement .settleEnd := fun p a _ => busAccessOf_rowOfAccess p a
theorem pinReset : Statement .pinReset := fun p a _ => busAccessOf_rowOfAccess p a
theorem pinResetRelease : Statement .pinResetRelease := fun p a _ => busAccessOf_rowOfAccess p a
theorem openRow (b : BankId) : Statement (.openRow b) := fun p a _ => busAccessOf_rowOfAccess p a
theorem closeRow (b : BankId) : Statement (.closeRow b) := fun p a _ => busAccessOf_rowOfAccess p a
theorem closeAll : Statement .closeAll := fun p a _ => busAccessOf_rowOfAccess p a
theorem readBurst (b : BankId) : Statement (.readBurst b) := fun p a _ => busAccessOf_rowOfAccess p a
theorem writeBurst (b : BankId) : Statement (.writeBurst b) := fun p a _ => busAccessOf_rowOfAccess p a
theorem renewAll : Statement .renewAll := fun p a _ => busAccessOf_rowOfAccess p a
theorem loadOptions : Statement .loadOptions := fun p a _ => busAccessOf_rowOfAccess p a
theorem openSettleEnd (b : BankId) : Statement (.openSettleEnd b) := fun p a _ => busAccessOf_rowOfAccess p a
theorem closeSettleEnd (which : SettleOf) : Statement (.closeSettleEnd which) := fun p a _ => busAccessOf_rowOfAccess p a
theorem fetchReturn (b : BankId) : Statement (.fetchReturn b) := fun p a _ => busAccessOf_rowOfAccess p a
theorem writeDataEnd (b : BankId) : Statement (.writeDataEnd b) := fun p a _ => busAccessOf_rowOfAccess p a
theorem storeComplete (b : BankId) : Statement (.storeComplete b) := fun p a _ => busAccessOf_rowOfAccess p a
theorem renewalComplete : Statement .renewalComplete := fun p a _ => busAccessOf_rowOfAccess p a
theorem optionLoadEnd : Statement .optionLoadEnd := fun p a _ => busAccessOf_rowOfAccess p a
theorem slotGrant : Statement .slotGrant := fun p a _ => busAccessOf_rowOfAccess p a
theorem requestGrant : Statement .requestGrant := fun p a _ => busAccessOf_rowOfAccess p a
theorem heldPostAcceptance : Statement .heldPostAcceptance := fun p a _ => busAccessOf_rowOfAccess p a
theorem drainComplete : Statement .drainComplete := fun p a _ => busAccessOf_rowOfAccess p a
theorem opportunisticRenewal : Statement .opportunisticRenewal := fun p a _ => busAccessOf_rowOfAccess p a
theorem resettingEnd : Statement .resettingEnd := fun p a _ => busAccessOf_rowOfAccess p a
theorem jobStart : Statement .jobStart := fun p a _ => busAccessOf_rowOfAccess p a
theorem destinationLineBuild : Statement .destinationLineBuild := fun p a _ => busAccessOf_rowOfAccess p a
theorem scanExamination : Statement .scanExamination := fun p a _ => busAccessOf_rowOfAccess p a
theorem compareChunk : Statement .compareChunk := fun p a _ => busAccessOf_rowOfAccess p a
theorem jobEnd : Statement .jobEnd := fun p a _ => busAccessOf_rowOfAccess p a
theorem busCycleEnd : Statement .busCycleEnd := fun p a _ => busAccessOf_rowOfAccess p a
theorem microsecondBoundary : Statement .microsecondBoundary := fun p a _ => busAccessOf_rowOfAccess p a

end Sys2Proof.Laws.AccessOfRow
end

