-- ==== Sys2Proof/Laws/Step.lean ====
section
/-! SUPPORT. Induction over one step: what every row and every consequence keeps, the end of an event and a step
keep. A law of the machine is proved of the actions and of the rows, and then once here. -/

namespace Sys2Proof.Laws

open Sys2Proof.Machine

variable (P : State → Prop)

/-- The steps that wait with the place of a CLOSE ALL among them, the burst order and the data bus are what the end
of an event sets beside its consequences (R106, R112). -/
theorem finish_induct (action : ∀ a ∈ settleActions, ∀ s t, a s = some t → P s → P t)
    (pins : ∀ s order bus due call, P s →
      P { s with seq := { s.seq with burstOrder := order, dataBus := bus, due := due, resetCloseAll := call } })
    (before : State) {s : State} (h : P s) : P (State.finish before s) := by
  have ordered := pins s.settle (sortAfter before.seq.burstOrder.length Fin.val s.settle.seq.burstOrder)
    s.settle.seq.dataBus s.settle.seq.due s.settle.seq.resetCloseAll (settle_induct P action h)
  have scheduled : P (State.scheduleBurst (State.orderReady before s.settle)) := by
    unfold State.scheduleBurst
    split
    · next b _ _ _ =>
      rcases addDue_cases (State.orderReady before s.settle) b .burst with ⟨_, h⟩ | ⟨_, h⟩ <;> rw [h]
      · exact pins (State.orderReady before s.settle) _ (some b) _ _ ordered
      · exact pins (State.orderReady before s.settle) _ (some b) _ _ ordered
    · exact ordered
    · exact ordered
  have due : P (State.orderDue before (State.scheduleBurst (State.orderReady before s.settle))) :=
    pins _ _ _ _ _ scheduled
  rcases placeCloseAll_cases before (State.orderDue before (State.scheduleBurst (State.orderReady before s.settle)))
    with ⟨_, _, h⟩ | ⟨_, h⟩ <;> unfold State.finish <;> rw [h]
  · exact pins _ _ _ _ _ due
  · exact due

/-- What every row keeps, a run of rows keeps. -/
theorem runEvents_induct (row : ∀ i s t, exec i s = .next t → P s → P t) :
    ∀ (es : List Instr) (s t : State), runEvents es s = .next t → P s → P t
  | [], s, t, h, hs => by
    cases h
    exact hs
  | e :: es, s, t, h, hs => by
    unfold runEvents at h
    split at h
    · next u hu => exact runEvents_induct row es u t h (row e s u hu hs)
    · cases h
    · cases h

/-- What every row keeps, and the counting of a CLK period with it, a step keeps. -/
theorem step_induct (row : ∀ i s t, exec i s = .next t → P s → P t) (clk : ∀ s, P s → P s.countClk)
    (queue : ∀ s q, P s → P (s.withPending q)) (draw : ∀ s k, P s → P (s.withDraws k))
    (due : ∀ s d call, P s → P { s with seq := { s.seq with due := d, resetCloseAll := call } }) {s t : State} (h : step s = .next t)
    (hs : P s) : P t := by
  unfold step at h
  split at h
  · unfold tick at h
    split at h
    · cases h
      exact hs
    · next low =>
      have counted : P s.countClk.countMicrosecond := by
        unfold State.countMicrosecond
        split
        · refine row .microsecondBoundary _ _ ?_ (clk s hs)
          have high : s.countClk.resetLow = false := by simpa [State.countClk] using low
          simp [exec, execMicrosecondBoundary, whileRunning, high]
        · exact clk s hs
      have drawn : P s.countClk.countMicrosecond.drawOrder := by
        unfold State.drawOrder
        split
        · exact counted
        · exact draw _ _ counted
      dsimp only at h
      split at h
      · next u hu =>
        have ran : P (State.orderDue s u) := due u _ _ (runEvents_induct P row _ _ _ hu drawn)
        refine runEvents_induct P row _ _ _ h ?_
        rcases placeCloseAll_cases s (State.orderDue s u) with ⟨_, _, hp⟩ | ⟨_, hp⟩ <;> rw [hp]
        · exact due _ _ _ ran
        · exact ran
      · cases h
      · cases h
  · exact row _ _ _ h (queue _ _ hs)

end Sys2Proof.Laws
end

