-- ==== Sys2Proof/Tests/Slice0.lean ====
section
/-! SUPPORT. Tests: what the well-formedness checks refuse, positions of the register window, single events on
small states, and for each statement states that meet its hypotheses. -/

namespace Sys2Proof.Tests

set_option Elab.async false

open Sys2Proof Sys2Proof.Machine Sys2Proof.Safety

/-! ### Small states -/

/-- The state after, or none at a stop. -/
def after : Host.Outcome State Fault Refusal → Option State
  | .next t => some t
  | .fault _ => none
  | .refused _ => none

/-- A STARTED memory, right after start-up. -/
def started : State :=
  { State.reset with
    seq := { Sequencer.reset with memory := .started }
    renewal := { debt := 0, interval := some 15, active := false } }

/-- PARAMi holds a byte. -/
def withParam (i : Fin 16) (v : Byte) (s : State) : State :=
  { s with port := { s.port with param := s.port.param.set i.val v } }

/-- The window of lines 0 and 16. -/
def twoLines (e : EndPolicy) (w : WaitPolicy) : Window := { first := 0, last := 31, endPolicy := e, waitPolicy := w }

/-- A read stream on that window. -/
def reader (e : EndPolicy) (w : WaitPolicy) (cursor : Nat) (queue : List ReadEntry) : ReadStream :=
  { window := twoLines e w, cursor := cursor, fetchCursor := 16, depth := 2, fill := 0xEE#8, queue := queue,
    ended := false }

/-- An entry for line 0 in slot 0. -/
def entry (st : EntryState) : ReadEntry := { slot := 0, line := 0, state := st }

/-- A write stream on that window. -/
def writer (w : WaitPolicy) (a : Option Assembly) (st : WriteState) : WriteStream :=
  { window := twoLines .stop w, cursor := 0, linger := 0, lingerTimer := none, assembly := a, state := st }

/-- An assembly for line 0 in slot 1. -/
def assembly (mask : ByteMask) (frozen : Bool) : Assembly := { slot := 1, line := 0, mask := mask, frozen := frozen }

/-- Stream 0 is a context. -/
def stream0 (c : Stream) (s : State) : State := s.setStream 0 c

/-- Sixteen WAITING posts, for lines 4096, 4112 and so on, in slots 16 to 31. -/
def fullPost : List PostEntry :=
  (List.finRange 16).map fun k =>
    { line := 4096 + 16 * k.val, mask := 0xFFFF#16, slot := ⟨16 + k.val, by omega⟩, state := .waiting, tag := false }

/-- A state with posts. -/
def withPosts (es : List PostEntry) (s : State) : State := s.withPost { s.post with entries := es }

/-- Every slot is owned by the Post Queue: none is FREE. -/
def noFree (s : State) : State :=
  s.withPool { s.pool with slots := Vector.replicate 48 { owner := .post, bytes := Config.blankLine } }

/-- The owner record of line 0 in slot 0. -/
def owning (op : MemOp) : OwnerRecord :=
  { position := if op = .fetch then 0 else 8, op := op, line := 0, slot := 0, mask := 0x0001#16, discard := false }

/-- Bank 0 in a state, on row 0 with an owner. -/
def bank0 (st : BankState) (o : Option OwnerRecord) (s : State) : State :=
  s.setBank 0 { Bank.reset with state := st, openRow := some 0, owner := o }

/-- A step of bank 0 waits for the pins. -/
def due0 (x : BankStep) (s : State) : State := s.mapSeq fun q => { q with due := [(0, x)] }

/-- The Command Port with a command in progress, on stream 0. -/
def executing (c : LongCommand) (s : State) : State :=
  { s with port := { s.port with state := .executing { command := c, params := s.port.param } } }

/-- The Command Port RESETTING. -/
def resetting (s : State) : State := { s with port := { s.port with state := .resetting } }

/-- A job of 16 bytes. -/
def job (w : Work) : Job := { tag := 0x07#8, work := w, length := 16 }

/-- The engine RUNNING a job. -/
def running (w : Work) (s : State) : State :=
  s.mapEngine fun e => { e with state := .running { (job w).started with direction := some .ascending } }

/-- The engine's buffer k in slot k, FILLED with a line. -/
def filled (k : Fin 2) (line : Nat) (s : State) : State :=
  s.mapEngine fun e =>
    { e with buffers := e.buffers.set k.val (some { slot := k.castLE (by decide), line := some line, state := .filled }) }

/-- The engine holds slot 2 for its destination line. -/
def destination (held : Bool) (s : State) : State :=
  s.mapEngine fun e => { e with dest := some { slot := 2, line := 0, mask := 0xFFFF#16, held := held } }

/-- A record of the job. -/
def oneRecord : CompletionRecord := { tag := 0x07#8, kind := .fill, outcome := .complete, value := 0 }

/-- The queue laws hold of a state whose WAITING entries are at most one. -/
theorem oneWaiting_of_count {s : State} (h : (s.post.entries.filter fun e => e.state = .waiting).length ≤ 1) :
    OneWaitingPerLine s := by
  intro line
  refine Nat.le_trans (List.Sublist.length_le ?_) h
  refine List.monotone_filter_right _ fun e he => ?_
  simpa using (of_decide_eq_true he).2

/-- An outcome with a state after it is that next state. -/
theorem runs {o : Host.Outcome State Fault Refusal} (h : (after o).isSome = true) : ∃ t, o = .next t := by
  cases o with
  | next t => exact ⟨t, rfl⟩
  | fault r => simp [after] at h
  | refused r => simp [after] at h

/-! ### Well-formedness -/

theorem test_wellFormed_refuses_a_table_code : (Instr.badCommand 0x01#8).wellFormed = false := by decide

theorem test_wellFormed_refuses_a_soft_reset_without_bit_0 : (Instr.softReset 0x00#8).wellFormed = false := by decide

theorem test_wellFormed_refuses_writes_with_a_row_of_their_own :
    (Instr.registerWrite .command (.write 0x01#8)).wellFormed = false ∧
    (Instr.registerWrite (.data 0) (.write 0x01#8)).wellFormed = false ∧
    (Instr.registerWrite .control (.write 0x01#8)).wellFormed = false ∧
    (Instr.registerWrite .eventPending (.write 0x01#8)).wellFormed = false ∧
    (Instr.registerWrite .eventEnable (.write 0x01#8)).wellFormed = false ∧
    (Instr.registerWrite (.streamEvent 0) (.write 0x01#8)).wellFormed = false ∧
    (Instr.registerWrite .streamEventEnable (.write 0x01#8)).wellFormed = false ∧
    (Instr.registerWrite (.unmapped 0) (.write 0x01#8)).wellFormed = false := by decide

theorem test_wellFormed_refuses_reads_with_a_row_of_their_own :
    (Instr.registerWrite (.data 0) .read).wellFormed = false ∧
    (Instr.registerWrite (.unmapped 0) .read).wellFormed = false := by decide

/-! ### The window -/

theorem test_positions_of_the_register_map :
    positionOf 0x07#6 = .data 7 ∧ positionOf 0x08#6 = .param 0 ∧ positionOf 0x17#6 = .param 15 ∧
    positionOf 0x18#6 = .command ∧ positionOf 0x19#6 = .cmdStatus ∧ positionOf 0x1A#6 = .result 0 ∧
    positionOf 0x21#6 = .result 7 ∧ positionOf 0x22#6 = .eventPending ∧ positionOf 0x23#6 = .eventEnable ∧
    positionOf 0x24#6 = .streamEvent 0 ∧ positionOf 0x2C#6 = .streamState 0 ∧
    positionOf 0x34#6 = .streamEventEnable ∧ positionOf 0x35#6 = .memoryStatus ∧ positionOf 0x36#6 = .poolFree ∧
    positionOf 0x37#6 = .postCount ∧ positionOf 0x38#6 = .jobStatus ∧ positionOf 0x39#6 = .control ∧
    positionOf 0x3A#6 = .unmapped 0 ∧ positionOf 0x3F#6 = .unmapped 5 := by decide

theorem test_command_codes_name_their_rows :
    rowOfAccess .command (.write 0x01#8) = .openRead ∧ rowOfAccess .command (.write 0x08#8) = .sync ∧
    rowOfAccess .command (.write 0x10#8) = .submitJob ∧ rowOfAccess .command (.write 0x22#8) = .setClock ∧
    rowOfAccess .command (.write 0x07#8) = .badCommand 0x07#8 ∧
    rowOfAccess .control (.write 0x03#8) = .softReset 0x03#8 ∧
    rowOfAccess .control (.write 0x02#8) = .registerWrite .control (.write 0x02#8) := by decide

/-! ### Single events -/

/-- What a register shows after a command. -/
def shows (p : Position) (i : Instr) (s : State) : Option Byte := (after (exec i s)).map fun t => t.registerByte p

/-- OPEN_READ of stream 0 on lines 0 and 16, depth 2. -/
def openParams (s : State) : State := withParam 4 0x1F#8 (withParam 10 0x02#8 s)

theorem test_openRead_before_start_up_is_refused : shows .cmdStatus .openRead (openParams State.reset) = some 0x06#8 := by
  decide +kernel

theorem test_openRead_claims_a_slot_and_its_fetch_sets_out :
    shows .cmdStatus .openRead (openParams started) = some 0x00#8 ∧
    shows (.streamState 0) .openRead (openParams started) = some 0x22#8 ∧
    shows .poolFree .openRead (openParams started) = some 0x2E#8 ∧
    (after (exec .openRead (openParams started))).map (fun t => t.seq.due) =
      some [(0, .openRow), (1, .openRow)] := by decide +kernel

theorem test_openWrite_holds_no_slot :
    shows .poolFree .openWrite (openParams started) = some 0x30#8 ∧
    shows (.streamState 0) .openWrite (openParams started) = some 0x80#8 := by decide +kernel

theorem test_dataPortWrite_claims_places_and_marks :
    (after (exec (.dataPortWrite 0 0xAB#8) (stream0 (.write (writer .nowait none .opened)) started))).map (fun t =>
      (t.registerByte (.streamState 0), t.registerByte .poolFree, (t.bytesOf 0)[0])) =
      some (0x81#8, 0x2F#8, 0xAB#8) := by decide +kernel

theorem test_the_last_byte_of_a_line_posts_it :
    (after (exec (.dataPortWrite 0 0xAB#8) (stream0 (.write { writer .nowait (some (assembly 0x7FFF#16 false)) .opened with
      cursor := 15 }) started))).map (fun t => (t.registerByte .postCount, t.registerByte (.streamState 0))) =
      some (0x01#8, 0x80#8) := by decide +kernel

theorem test_dataPortRead_under_nowait_answers_the_fill_byte :
    (after (exec (.dataPortRead 0) (stream0 (.read (reader .stop .nowait 0 [])) State.reset))).map (fun t =>
      (t.dataLines, t.registerByte (.streamEvent 0))) = some (some 0xEE#8, 0x04#8) := by decide +kernel

theorem test_dataPortRead_under_wait_stretches :
    (after (exec (.dataPortRead 0) (stream0 (.read (reader .stop (.wait 5) 0 [])) State.reset))).map (fun t =>
      (t.waitAsserted, t.dataLines)) = some (true, none) := by decide +kernel

theorem test_submitJob_of_a_fill_runs_and_takes_a_slot :
    (after (exec .submitJob (withParam 1 0x02#8 (withParam 8 0x10#8 (withParam 11 0x5A#8 started))))).map (fun t =>
      (t.registerByte .cmdStatus, t.registerByte .postCount, t.registerByte .jobStatus)) =
      some (0x00#8, 0x01#8, 0x10#8) := by decide +kernel

theorem test_setTiming_out_of_range_is_refused : shows .cmdStatus .setTiming State.reset = some 0x04#8 := by
  decide +kernel

theorem test_setClock_of_three_is_refused : shows .cmdStatus .setClock (withParam 0 0x03#8 State.reset) = some 0x04#8 := by
  decide +kernel

theorem test_memStart_stays_executing :
    shows .cmdStatus .memStart State.reset = some 0x80#8 ∧ shows .memoryStatus .memStart State.reset = some 0x01#8 := by
  decide +kernel

theorem test_takeCompletion_of_none_is_empty : shows .cmdStatus .takeCompletion State.reset = some 0x09#8 := by
  decide +kernel

theorem test_cancelJob_of_no_job : shows .cmdStatus .cancelJob State.reset = some 0x08#8 := by decide +kernel

theorem test_sync_of_no_post_sets_syncDone : shows .eventPending .sync State.reset = some 0x41#8 := by decide +kernel

theorem test_badCommand : shows .cmdStatus (.badCommand 0x07#8) State.reset = some 0x01#8 := by decide +kernel

theorem test_softReset_with_nothing_under_way_ends_at_once :
    shows .control (.softReset 0x01#8) started = some 0x00#8 := by decide +kernel

theorem test_softReset_waits_for_an_owned_bank :
    shows .control (.softReset 0x01#8) (bank0 .reading (some (owning .fetch)) started) = some 0x02#8 := by decide +kernel

theorem test_unmappedAccess_sets_portMisuse :
    shows .eventPending (.unmappedAccess 0 .read) State.reset = some 0x10#8 := by decide +kernel

theorem test_closeAll_of_a_renewal_closes_the_open_bank :
    (after (exec .closeAll (bank0 .opened none { started with
      renewal := { debt := 6, interval := some 15, active := true } }))).map (fun t =>
      (t.seq.banks[0].state, t.seq.banks[1].state, t.pins.command.ma)) = some (.closing, .closed, 0x800#12) := by
  decide +kernel

theorem test_a_clk_period_issues_the_step_that_is_due :
    (after (step (due0 .openRow (bank0 .closed (some (owning .fetch)) started)))).map (fun t =>
      (t.seq.banks[0].state, t.seq.banks[0].left, t.pins.command.msel, t.seq.due)) =
      some (.opening, 3, false, []) := by decide +kernel

theorem test_a_store_writes_its_marked_byte :
    (after (exec (.storeComplete 0) { bank0 .recovering (some (owning .store)) started with
      pool := { started.pool with slots := Vector.replicate 48 { owner := .post, bytes := Vector.replicate 16 0x77#8 } } })).map
      (fun t => t.memory) = some [(0, 0x77#8)] := by decide +kernel

/-- Bank 0 reading line 0 with some MCLK left, over a memory whose byte 2 is 0x5A. -/
def burstAt (left : Nat) : State :=
  { started with memory := [(2, 0x5A#8)] }.setBank 0
    { Bank.reset with state := .reading, openRow := some 0, left := left,
                      owner := some { position := 0, op := .fetch, line := 0, slot := 0, mask := 0#16, discard := false } }

theorem test_the_words_of_a_read_burst :
    (burstAt 9).dataPins = none ∧ ((burstAt 8).dataPins.map fun w => w.low) = some 0x00#8 ∧
    ((burstAt 7).dataPins.map fun w => w.low) = some 0x5A#8 ∧ (burstAt 1).dataPins.isSome = true ∧
    (burstAt 0).dataPins = none ∧ (burstAt 7).pins.masks = (false, false) := by decide +kernel

/-! ### States that meet the hypotheses of the statements -/

theorem test_witness_StepTakesTheFrontCommand : { State.reset with pending := [.sync] }.pending = .sync :: [] := rfl

/-- The fetch of line 0 is in flight into slot 0. -/
def fetching (st : BankState) : State := bank0 st (some (owning .fetch)) started

/-- The timebase one CLK period before a microsecond boundary. -/
def lateClk : State := { State.reset with clock := { Clock.reset with clkCount := 24 } }

theorem test_witness_EmptyQueueStepIsOneClkPeriod :
    (State.reset.fall.pending = [] ∧ State.reset.fall.resetLow = true) ∧
    (State.reset.pending = [] ∧ State.reset.resetLow = false ∧ State.reset.countClk.countMicrosecond.dueEvents = [] ∧
      State.reset.seq.due = [] ∧ State.reset.countClk.countMicrosecond.nextStep = [] ∧
      State.reset.clock.clkCount + 1 < State.reset.clock.divisor) ∧
    (lateClk.pending = [] ∧ lateClk.resetLow = false ∧ lateClk.countClk.countMicrosecond.dueEvents = [] ∧
      lateClk.seq.due = [] ∧ lateClk.countClk.countMicrosecond.nextStep = [] ∧
      lateClk.clock.divisor ≤ lateClk.clock.clkCount + 1) ∧
    (fetching .opening).pending = [] ∧ (fetching .opening).resetLow = false ∧
    ∃ t, exec (.openSettleEnd 0) (fetching .opening).countClk.countMicrosecond = .next t :=
  ⟨by decide +kernel, by decide +kernel, by decide +kernel, by decide +kernel, by decide +kernel,
    runs (by decide +kernel)⟩

/-- In the MCLK in which an open settle ends the burst is due, and it goes out in that MCLK. -/
theorem test_an_ended_interval_runs_its_event_and_one_step_goes_out :
    (fetching .opening).countClk.countMicrosecond.dueEvents = [.openSettleEnd 0] ∧
    ((after (step (fetching .opening))).map fun t => (t.seq.banks[0].state, t.seq.due, t.pins.command.msel)) =
      some (.reading, [], false) := by decide +kernel

/-- Bank 0 in the middle of a store. -/
def storing (st : BankState) : State := bank0 st (some (owning .store)) started

theorem test_witness_PinResetCutsOperationsOff :
    State.reset.fall.resetLow = true ∧ (storing .writing).resetLow = false ∧ MemoryCanonical (storing .writing) ∧
    (storing .writing).seq.banks[0].cutStore = some (owning .store) ∧
    (storing .recovering).seq.banks[0].cutStore = some (owning .store) ∧
    (burstAt 8).dataPins ≠ none ∧ (burstAt 8).fall.dataPins = none := by decide +kernel

theorem test_witness_PinResetReleaseGivesResetValues :
    State.reset.resetLow = false ∧ State.reset.fall.resetLow = true := by decide +kernel

theorem test_witness_AccessRowsDecodeAndEncode :
    (Instr.badCommand 0x00#8).wellFormed = true ∧ busAccessOf (.badCommand 0x00#8) = some (.command, .write 0x00#8) ∧
    (Instr.softReset 0xFF#8).wellFormed = true ∧ busAccessOf (.softReset 0xFF#8) = some (.control, .write 0xFF#8) := by
  decide

/-- A stretched cycle of stream 0. -/
def stretchedCycle (a : Access) (left : Nat) (s : State) : State := s.withBus (.stretched 0 a left)

theorem test_witness_RowsAreBusAccessesThatMayBeHeldOff :
    busAccessOf .sync = some (.command, .write 0x08#8) ∧ State.reset.fall.resetLow = true ∧
    (stretchedCycle .read 5 State.reset).waitAsserted = true := by decide +kernel

theorem test_witness_AccessesThatSuitNoPosition :
    State.reset.accessCanBegin = true ∧ QueuesWithinCapacity State.reset ∧
    (resetting State.reset).accessCanBegin = true ∧ (resettingEnd (resetting State.reset)).isSome = true ∧
    (0x01#8).getLsbD 0 = true ∧ (0xFE#8).getLsbD 0 = false := by decide +kernel

theorem test_witness_RegisterReadsShowTheirFields :
    (plainRead .control = true ∧ State.reset.accessCanBegin = true) ∧
    ∀ s ∈ [State.reset, executing .memStart State.reset, resetting State.reset],
      QueuesWithinCapacity s ∧ DebtCapped s ∧ ∀ n : StreamId, s.streams[n].heldCount ≤ 16 := by decide +kernel

theorem test_witness_ParameterBlockIsStorageCapturedByCommands :
    State.reset.accessCanBegin = true ∧ TakesCommand State.reset ∧
    busAccessOf .memStart = some (.command, .write 0x21#8) ∧
    ∃ t c, exec .memStart State.reset = .next t ∧ t.port.state = .executing c :=
  ⟨rfl, ⟨rfl, rfl⟩, rfl, _, _, rfl, rfl⟩

theorem test_witness_EventAndEnableWrites : State.reset.accessCanBegin = true := rfl

theorem test_witness_InterruptLineAndSummariesFollowTheirCauses :
    State.reset.resetLow = false ∧ State.reset.eventEnableByte = 0x00#8 ∧ State.reset.accessCanBegin = true ∧
    State.reset.fall.resetLow = true := by decide +kernel

/-- The stream contexts that a data port access meets. -/
theorem test_witness_MisusedDataPortAnswersAndFlags :
    (TakesAccess State.reset ∧ State.reset.streams[(0 : StreamId)] = .closed) ∧
    (∀ c ∈ [Stream.write (writer .nowait none .opened), .write (writer .nowait none .ended),
        .write (writer .nowait none .draining), .read (reader .stop .nowait 0 []),
        .read { reader .stop .nowait 0 [] with ended := true }],
      TakesAccess (stream0 c State.reset) ∧ (stream0 c State.reset).streams[(0 : StreamId)] = c) := by decide +kernel

theorem test_witness_ReadyReadDeliversAndAdvances :
    (∀ r ∈ [reader .stop .nowait 0 [entry .filled], reader .stop .nowait 15 [entry .filled],
        reader .stop .nowait 31 [{ entry .filled with line := 16 }],
        { reader .wrap .nowait 15 [entry .filled] with window := { twoLines .wrap .nowait with last := 15 } },
        reader .wrap .nowait 31 [{ entry .filled with line := 16 }]],
      TakesAccess (stream0 (.read r) State.reset) ∧ (stream0 (.read r) State.reset).streams[(0 : StreamId)] = .read r ∧
      r.ended = false ∧ (∃ e ∈ r.queue, r.queue = [e] ∧ e.state = .filled)) ∧
    (0 : Nat) = lineOf (0 + 1) ∧ (0 : Nat) ≠ lineOf (15 + 1) ∧ (16 : Nat) ≠ lineOf 0 := by decide +kernel

theorem test_witness_ReadsOfStreamsThatAreNotReady :
    ∀ r ∈ [{ reader .stop .nowait 0 [] with ended := true }, reader .stop .nowait 0 [],
        reader .stop (.wait 1) 0 [entry .inFlight], reader .stop (.wait 255) 0 []],
      TakesAccess (stream0 (.read r) State.reset) ∧ (stream0 (.read r) State.reset).streams[(0 : StreamId)] = .read r ∧
      r.headFilled = false := by decide +kernel

theorem test_witness_StretchEndsAndCycleEnds :
    (stretchedCycle .read 0 (stream0 (.read (reader .stop (.wait 5) 0 [])) State.reset)).resetLow = false ∧
    (stretchedCycle .read 0 (stream0 (.read (reader .stop (.wait 5) 0 [])) State.reset)).bus = .stretched 0 .read 0 ∧
    (stretchedCycle .read 0 (stream0 (.read (reader .stop (.wait 5) 0 [])) State.reset)).streams[(0 : StreamId)] =
      .read (reader .stop (.wait 5) 0 []) ∧
    (stretchedCycle (.write 0xAB#8) 0 State.reset).bus = .stretched 0 (.write 0xAB#8) 0 ∧
    (stretchedCycle (.write 0xAB#8) 0 State.reset).resetLow = false ∧
    (stretchedCycle .read 1 State.reset).bus = .stretched 0 .read (0 + 1) ∧
    (State.reset.withBus (.answered none)).bus = .answered none := by decide +kernel

theorem test_witness_DroppedWritesSetOverrun :
    (∀ w ∈ [writer .nowait none (.blocked .noSlot), writer .nowait (some (assembly 1#16 true)) (.blocked .postFull),
        writer (.wait 5) none .ended, writer (.wait 5) (some (assembly 1#16 true)) .draining],
      TakesAccess (stream0 (.write w) State.reset) ∧ (stream0 (.write w) State.reset).streams[(0 : StreamId)] = .write w ∧
      (stream0 (.write w) State.reset).bus.waitingWrite 0 = none) ∧
    (TakesAccess State.reset ∧ State.reset.streams[(0 : StreamId)] = .closed) := by decide +kernel

theorem test_witness_WritesPlaceBytesOrClaim :
    (∀ w ∈ [writer (.wait 5) none (.blocked .noSlot), writer .nowait none .opened, writer (.wait 5) none .opened,
        writer .nowait (some (assembly 1#16 false)) .opened],
      TakesAccess (stream0 (.write w) started) ∧ (stream0 (.write w) started).streams[(0 : StreamId)] = .write w ∧
      (stream0 (.write w) started).pool.firstFree = some 0 ∧
      TakesAccess (stream0 (.write w) (noFree started)) ∧
      (stream0 (.write w) (noFree started)).streams[(0 : StreamId)] = .write w ∧
      (stream0 (.write w) (noFree started)).pool.firstFree = none) ∧
    ((0 : Nat) ≠ 31 ∧ lineOf (0 + 1) = (assembly 0#16 false).line) ∧
    ((15 : Nat) ≠ 31 ∧ lineOf (15 + 1) ≠ (assembly 0#16 false).line) ∧
    (∀ e ∈ [EndPolicy.stop, .wrap], ∃ w : WriteStream, w.cursor = w.window.last ∧ w.window.endPolicy = e ∧
      w.assembly = some { assembly 1#16 false with line := 16 } ∧
      TakesAccess (stream0 (.write w) started) ∧ (stream0 (.write w) started).streams[(0 : StreamId)] = .write w) := by
  refine ⟨by decide +kernel, by decide, by decide, fun e he => ?_⟩
  let w := writer .nowait (some { assembly 1#16 false with line := 16 }) .opened
  refine ⟨{ w with cursor := 31, window := { w.window with endPolicy := e } }, rfl, rfl, rfl, ?_⟩
  simp only [List.mem_cons, List.not_mem_nil, or_false] at he
  rcases he with rfl | rfl <;> decide +kernel

/-- A post for line 0 that waits. -/
def post0 (st : PostState) : PostEntry := { line := 0, mask := 0x00FF#16, slot := 3, state := st, tag := false }

theorem test_witness_PostIsMergedAppendedOrHeld :
    (withPosts [post0 .waiting] started).post.waitingFor 0 = some (post0 .waiting) ∧
    (started.post.waitingFor 0 = none ∧ started.post.entries.length < 16) ∧
    ((withPosts fullPost started).post.waitingFor 0 = none ∧ 16 ≤ (withPosts fullPost started).post.entries.length) ∧
    (started.acceptPost 0 1#16 1).isSome = true ∧ (withPosts fullPost started).acceptPost 0 1#16 1 = none := by
  decide +kernel

/-- OPEN parameters at the ends of their ranges: one line at the top of the fitted size, depth 1 or 8. -/
def topParams (depth : Byte) (s : State) : State :=
  withParam 1 0xFF#8 (withParam 2 0xFF#8 (withParam 3 0xFF#8 (withParam 4 0xFF#8 (withParam 5 0xFF#8
    (withParam 6 0xFF#8 (withParam 7 0x01#8 (withParam 8 0x01#8 (withParam 9 0x01#8 (withParam 10 depth s)))))))))

theorem test_witness_OpenMakesTheContextAskedFor :
    ∀ s ∈ [topParams 0x01#8 started, topParams 0x08#8 started, openParams started],
      TakesCommand s ∧ s.streams[(0 : StreamId)] = .closed ∧ s.port.param[0].toNat = (0 : StreamId).val ∧
      ¬ BadPolicies s.port.param ∧ 1 ≤ s.port.param[10].toNat ∧ s.port.param[10].toNat ≤ 8 ∧
      s.seq.memory = .started ∧ WindowFits s.port.param s := by decide +kernel

theorem test_witness_OpenChecksInOrder :
    (TakesCommand (withParam 0 0x08#8 started) ∧ 8 ≤ (withParam 0 0x08#8 started).port.param[0].toNat) ∧
    (TakesCommand (stream0 (.read (reader .stop .nowait 0 [])) started) ∧
      (stream0 (.read (reader .stop .nowait 0 [])) started).port.param[0].toNat = (0 : StreamId).val ∧
      (stream0 (.read (reader .stop .nowait 0 [])) started).streams[(0 : StreamId)] ≠ .closed) ∧
    (TakesCommand started ∧ started.streams[(0 : StreamId)] = .closed ∧ started.port.param[10].toNat = 0) ∧
    (8 < (withParam 10 0x09#8 started).port.param[10].toNat) ∧
    BadPolicies (withParam 7 0x02#8 started).port.param ∧ BadPolicies (withParam 8 0x02#8 started).port.param ∧
    BadPolicies (withParam 8 0x01#8 started).port.param ∧
    (TakesCommand (openParams State.reset) ∧ ¬ BadPolicies (openParams State.reset).port.param ∧
      (openParams State.reset).seq.memory ≠ .started ∧ 1 ≤ (openParams State.reset).port.param[10].toNat ∧
      (openParams State.reset).port.param[10].toNat ≤ 8) ∧
    (TakesCommand (withParam 1 0x20#8 (openParams started)) ∧
      (withParam 1 0x20#8 (openParams started)).seq.memory = .started ∧
      ¬ BadPolicies (withParam 1 0x20#8 (openParams started)).port.param ∧
      ¬ WindowFits (withParam 1 0x20#8 (openParams started)).port.param (withParam 1 0x20#8 (openParams started))) := by
  decide +kernel

/-- A reader of lines 16 and 32. -/
def laterReader : ReadStream :=
  { reader .stop .nowait 16 [] with window := { first := 16, last := 47, endPolicy := .stop, waitPolicy := .nowait } }

theorem test_witness_StreamCommandsRefuseInOrder :
    (TakesCommand (withParam 0 0xFF#8 started) ∧ 8 ≤ (withParam 0 0xFF#8 started).port.param[0].toNat) ∧
    (TakesCommand started ∧ started.port.param[0].toNat = (0 : StreamId).val ∧
      started.streams[(0 : StreamId)] = .closed) ∧
    (∀ v ∈ [0x0F#8, 0x30#8],
      TakesCommand (withParam 1 v (stream0 (.read laterReader) started)) ∧
      (withParam 1 v (stream0 (.read laterReader) started)).port.param[0].toNat = (0 : StreamId).val ∧
      (withParam 1 v (stream0 (.read laterReader) started)).streams[(0 : StreamId)] = .read laterReader ∧
      (Params.addressAt (withParam 1 v (stream0 (.read laterReader) started)).port.param 1 < laterReader.window.first ∨
        laterReader.window.last < Params.addressAt (withParam 1 v (stream0 (.read laterReader) started)).port.param 1)) := by
  decide +kernel

theorem test_witness_RemovedEntriesAreReleasedByState :
    (entry .filled).state = .filled ∧ (entry .requested).state = .requested ∧ (entry .inFlight).state = .inFlight ∧
    (fetching .reading).seq.banks[bankOf (entry .inFlight).line].owner = some (owning .fetch) ∧
    (owning .fetch).op = .fetch ∧ (owning .fetch).slot = (entry .inFlight).slot := by decide +kernel

theorem test_witness_SeekAndCloseOfReadStream :
    (∀ s ∈ [stream0 (.read (reader .stop .nowait 0 [entry .filled])) started,
        withParam 1 0x1F#8 (stream0 (.read (reader .stop .nowait 0 [entry .filled])) started)],
      TakesCommand s ∧ s.port.param[0].toNat = (0 : StreamId).val ∧
      s.streams[(0 : StreamId)] = .read (reader .stop .nowait 0 [entry .filled]) ∧
      0 ≤ Params.addressAt s.port.param 1 ∧ Params.addressAt s.port.param 1 ≤ 31) ∧
    (∃ e ∈ [entry .filled], e.line = lineOf 0) ∧ (∀ e ∈ [entry .filled], e.line ≠ lineOf 0x1F) := by decide +kernel

/-- A stream command meets a write stream in one state. -/
def commanding (w : WriteStream) (s : State) : State := stream0 (.write w) s

theorem test_witness_FlushSeekAndCloseOfWriteStream :
    (∀ w ∈ [writer .nowait none .opened, writer .nowait (some (assembly 0#16 false)) .opened,
        writer .nowait (some (assembly 1#16 false)) .opened, writer .nowait (some (assembly 1#16 true)) (.blocked .postFull),
        writer .nowait none (.blocked .noSlot), writer .nowait none .ended, writer .nowait (some (assembly 1#16 true)) .ended],
      TakesCommand (commanding w started) ∧ (commanding w started).port.param[0].toNat = (0 : StreamId).val ∧
      (commanding w started).streams[(0 : StreamId)] = .write w ∧
      w.window.first ≤ Params.addressAt (commanding w started).port.param 1 ∧
      Params.addressAt (commanding w started).port.param 1 ≤ w.window.last) ∧
    ((answeredWrite started).acceptPost 0 1#16 1).isSome = true ∧
    (answeredWrite (withPosts fullPost started)).acceptPost 0 1#16 1 = none := by decide +kernel

theorem test_witness_QueryStreamReportsThePicture :
    (TakesCommand (withParam 0 0x08#8 started) ∧ 8 ≤ (withParam 0 0x08#8 started).port.param[0].toNat) ∧
    (∀ c ∈ [Stream.closed, .read (reader .stop .nowait 0 [entry .filled]), .read (reader .stop .nowait 0 []),
        .read { reader .stop .nowait 0 [] with ended := true }, .write (writer .nowait none .opened),
        .write (writer .nowait (some (assembly 3#16 false)) .opened), .write (writer .nowait none (.blocked .postFull)),
        .write (writer .nowait none (.blocked .noSlot)), .write (writer .nowait none .draining),
        .write (writer .nowait none .ended)],
      TakesCommand (stream0 c started) ∧ (stream0 c started).port.param[0].toNat = (0 : StreamId).val ∧
      (stream0 c started).streams[(0 : StreamId)] = c) := by decide +kernel

theorem test_witness_SyncTagsEveryEntryPresent :
    (TakesCommand started ∧ started.post.entries = []) ∧
    (TakesCommand (withPosts fullPost started) ∧ (withPosts fullPost started).post.entries ≠ []) := by decide +kernel

/-- SUBMIT_JOB parameters: kind and length, both ranges at 0. -/
def jobParams (kind length : Byte) (s : State) : State := withParam 1 kind (withParam 8 length s)

/-- Jobs in the job queue. -/
def withJobs (js : List Job) (s : State) : State := s.mapEngine fun e => { e with jobs := js }

theorem test_witness_SubmitJobChecksAndQueues :
    (∀ s ∈ [jobParams 0x00#8 0x10#8 started, jobParams 0x05#8 0x10#8 started, jobParams 0x01#8 0x00#8 started,
        withParam 14 0x02#8 (jobParams 0x03#8 0x10#8 started)],
      TakesCommand s ∧ (s.port.param[1].toNat = 0 ∨ 4 < s.port.param[1].toNat ∨ Params.addressAt s.port.param 8 = 0 ∨
        (s.port.param[1] = 3#8 ∧ 1 < s.port.param[14].toNat))) ∧
    (∀ k ∈ [1#8, 2#8, 3#8, 4#8],
      TakesCommand (jobParams k 0x10#8 started) ∧ (jobParams k 0x10#8 started).port.param[1] = k ∧
      Params.addressAt (jobParams k 0x10#8 started).port.param 8 ≠ 0 ∧
      Params.addressAt (jobParams k 0x10#8 started).port.param 2 +
        Params.addressAt (jobParams k 0x10#8 started).port.param 8 ≤ started.timing.rowsFitted * 4096 ∧
      Params.addressAt (jobParams k 0x10#8 started).port.param 5 +
        Params.addressAt (jobParams k 0x10#8 started).port.param 8 ≤ started.timing.rowsFitted * 4096) ∧
    (TakesCommand (jobParams 2#8 0x10#8 State.reset) ∧ State.reset.seq.memory ≠ .started) ∧
    (TakesCommand (withParam 2 0xF1#8 (withParam 3 0xFF#8 (withParam 4 0xFF#8 (jobParams 2#8 0x10#8 started)))) ∧
      started.timing.rowsFitted * 4096 < 0xFFFFF1 + 0x10) ∧
    (TakesCommand (withJobs (List.replicate 4 (job (.fill 0 0))) (jobParams 2#8 0x10#8 started)) ∧
      4 ≤ (withJobs (List.replicate 4 (job (.fill 0 0))) (jobParams 2#8 0x10#8 started)).engine.jobs.length) := by
  decide +kernel

/-- CANCEL_JOB of tag 7. -/
def cancelling (s : State) : State := withParam 0 0x07#8 s

/-- Records in the completion queue. -/
def withRecords (rs : List CompletionRecord) (s : State) : State := s.mapEngine fun e => { e with completions := rs }

/-- The engine COMPLETING. -/
def completing (s : State) : State := s.mapEngine fun e => { e with state := .completing oneRecord }

theorem test_witness_CancelJobRemovesAndFlags :
    (TakesCommand (cancelling started) ∧ (cancelling started).engine.jobs = [] ∧
      (cancelling started).engine.state = .idle) ∧
    (TakesCommand (cancelling (withRecords (List.replicate 4 oneRecord) (withJobs [job (.fill 0 0)] started)))) ∧
    (TakesCommand (cancelling (completing (withJobs [job (.fill 0 0)] started)))) ∧
    (TakesCommand (cancelling (running (.fill 0 0) started)) ∧
      (cancelling (running (.fill 0 0) started)).engine.active.map (fun j => j.job.tag) =
        some (cancelling (running (.fill 0 0) started)).port.param[0]) ∧
    (TakesCommand (cancelling (withRecords (List.replicate 3 oneRecord) (withJobs [job (.fill 0 0)] started))) ∧
      ((withJobs [job (.fill 0 0)] started).engine.jobs.filter fun j => j.tag = 0x07#8) = [job (.fill 0 0)]) := by
  decide +kernel

theorem test_witness_TakeCompletionReportsTheHeadRecord :
    (TakesCommand started ∧ started.engine.completions = []) ∧
    (TakesCommand (completing (withRecords [oneRecord] started)) ∧
      (completing (withRecords [oneRecord] started)).engine.completions = oneRecord :: [] ∧
      (completing (withRecords [oneRecord] started)).engine.state = .completing oneRecord) ∧
    (TakesCommand (withRecords [oneRecord] started) ∧ (withRecords [oneRecord] started).engine.state = .idle) ∧
    ((withJobs [job (.fill 0 0)] started).engine.state = .idle ∧
      (withJobs [job (.fill 0 0)] started).engine.jobs = job (.fill 0 0) :: []) := by decide +kernel

/-- The least and the greatest timing set of R124. -/
def timingParams (greatest : Bool) : State :=
  { State.reset with port := { State.reset.port with param :=
      if greatest then #v[15, 15, 3, 7, 31, 7, 100, 63, 3, 1, 0, 0, 0, 0, 0, 0]
      else #v[1, 1, 2, 1, 2, 1, 1, 1, 1, 0, 0, 0, 0, 0, 0, 0] } }

theorem test_witness_SetTimingReplacesAllMembers :
    (TakesCommand started ∧ started.seq.memory ≠ .unstarted) ∧
    (TakesCommand State.reset ∧ State.reset.seq.memory = .unstarted ∧ ¬ 1 ≤ State.reset.port.param[0].toNat) ∧
    (∀ g : Bool, TakesCommand (timingParams g) ∧ (timingParams g).seq.memory = .unstarted ∧
      (Params.timing (timingParams g).port.param).isSome = true) := by decide +kernel

/-- The start-up sequence at a point. -/
def startingUp (p : StartUp) : State := { (State.reset.mapSeq fun q => { q with memory := .starting }) with startUp := p }

/-- A memory-wide step runs. -/
def wideStep (w : WideStep) (s : State) : State := s.mapSeq fun q => { q with wide := w }

theorem test_witness_StartUpPassesThroughItsPhases :
    (TakesCommand started ∧ started.seq.memory ≠ .unstarted) ∧
    (TakesCommand State.reset ∧ State.reset.seq.memory = .unstarted) ∧
    ((startingUp (.settle 0)).resetLow = false ∧ (startingUp (.settle 0)).startUp = .settle 0) ∧
    ({ startingUp .closeSettling with startClose := some 0 }.startClose = some 0 ∧
      { startingUp .closeSettling with startClose := some 0 }.resetLow = false) ∧
    (∀ p ∈ [StartUp.renewRunning false, .renewRunning true, .none, .settle 300],
      (wideStep .renewing (startingUp p)).resetLow = false ∧ (wideStep .renewing (startingUp p)).seq.wide = .renewing ∧
      (wideStep .renewing (startingUp p)).renewal.active = false ∧ (wideStep .renewing (startingUp p)).startUp = p) ∧
    (∀ p ∈ [StartUp.loadRunning, .none],
      (wideStep .loading (startingUp p)).resetLow = false ∧ (wideStep .loading (startingUp p)).seq.wide = .loading ∧
      (wideStep .loading (startingUp p)).startUp = p) ∧
    (startingUp (.settle 300)).mcke = true ∧ (wideStep .renewing State.reset).mcke = true ∧
    State.reset.mcke = false ∧ started.fall.mcke = false := by decide +kernel

theorem test_witness_SetClockActsAtTheNextBoundary :
    (∀ v ∈ [0x03#8, 0x65#8, 0x04#8, 0x64#8], TakesCommand (withParam 0 v State.reset)) ∧
    ((0x03#8).toNat < 4 ∧ 100 < (0x65#8).toNat ∧ 4 ≤ (0x04#8).toNat ∧ (0x64#8).toNat ≤ 100) ∧
    State.reset.resetLow = false ∧ State.reset.clock.nextDivisor = none ∧
    { Clock.reset with nextDivisor := some 50 }.nextDivisor = some 50 ∧
    State.reset.waitAsserted = false ∧ (stretchedCycle .read 1 State.reset).bus = .stretched 0 .read 1 ∧
    (stream0 (.write (writer .nowait none .opened)) State.reset).streams[(0 : StreamId)] =
      .write (writer .nowait none .opened) ∧
    (startingUp (.settle 1)).startUp = .settle 1 := by decide +kernel

theorem test_witness_CommandsAndAccessesByCommandState :
    busAccessOf .sync = some (.command, .write 0x08#8) ∧ (executing .memStart State.reset).accessCanBegin = true ∧
    ((resetting State.reset).accessCanBegin = true ∧ (resetting State.reset).port.state = .resetting ∧
      (resetting State.reset).port.lastResult = .ok) ∧
    (State.reset.port.state = .idle ∧ commandCodes.contains 0x07#8 = false) := by decide +kernel

theorem test_witness_SoftResetEntryActsOnEveryBlock :
    (0x01#8).getLsbD 0 = true ∧ TakesAccess (withPosts [post0 .retiring] (fetching .reading)) ∧
    TakesAccess (executing .memStart (startingUp (.settle 5))) ∧
    (withPosts [post0 .retiring] (fetching .reading)).seq.banks[(0 : BankId)].owner = some (owning .fetch) ∧
    (startingUp (.settle 5)).seq.memory = .starting ∧ started.seq.memory ≠ .starting := by decide +kernel

theorem test_witness_ResettingEndsWhenNoBankIsOwned :
    ((resetting State.reset).resetLow = false ∧ (resetting State.reset).port.state = .resetting ∧
      ∀ b : BankId, (resetting State.reset).seq.banks[b].owner = none) ∧
    ((resetting (fetching .reading)).port.state = .resetting ∧
      (resetting (fetching .reading)).seq.banks[(0 : BankId)].owner ≠ none) := by decide +kernel

/-- The hypotheses under which all 48 slots are FREE when RESETTING ends are met together. -/
theorem test_witness_ResettingEndsWhenNoBankIsOwned_laws :
    SlotsHeld (resetting State.reset) ∧ OperationsLawful (resetting State.reset) ∧
      ResettingQuiet (resetting State.reset) := by
  have free : ∀ k : SlotId, (resetting State.reset).pool.slots[k].owner = .free := by decide +kernel
  have closed : ∀ n : StreamId, (resetting State.reset).streams[n] = .closed := by decide +kernel
  have unowned : ∀ b : BankId, (resetting State.reset).seq.banks[b].owner = none := by decide +kernel
  have unclaimed : ∀ c : Fin 9, (resetting State.reset).pool.claims[c] = none := by decide +kernel
  have unbuffered : ∀ k : Fin 2, (resetting State.reset).engine.buffers[k] = none := by decide +kernel
  have idleBanks : ∀ b : BankId, (resetting State.reset).seq.banks[b].state = .closed := by decide +kernel
  refine ⟨⟨?_, ?_, ?_, ?_, ?_, ?_, ?_, ?_⟩, ⟨?_, ?_, ?_, ?_, ?_, ?_, ?_, ?_⟩, ?_⟩
  · intro k n h; rw [free] at h; cases h
  · intro k n h; rw [free] at h; cases h
  · intro k h; rw [free] at h; cases h
  · intro k i h; rw [free] at h; cases h
  · intro k h; rw [free] at h; cases h
  · intro k h; rw [free] at h; cases h
  · intro n w h; rw [closed] at h; cases h
  · intro c x h; rw [unclaimed] at h; cases h
  · intro b o h; rw [unowned] at h; cases h
  · intro b o h; rw [unowned] at h; cases h
  · intro b o h; rw [unowned] at h; cases h
  · intro n r e h; rw [closed] at h; cases h
  · intro k x h; rw [unbuffered] at h; cases h
  · intro e h; cases h
  · intro b h; rw [idleBanks] at h; rcases h with h | h <;> cases h
  · intro c x k h; rw [unclaimed] at h; cases h
  · exact fun _ => ⟨closed, rfl, unclaimed, fun e h => by cases h⟩

theorem test_witness_LingerExpiryPostsTheAssembly :
    ∀ l ∈ [some 0, some 1, none],
      (stream0 (.write { writer .nowait (some (assembly 1#16 false)) .opened with lingerTimer := l }) started).resetLow =
        false ∧
      (stream0 (.write { writer .nowait (some (assembly 1#16 false)) .opened with lingerTimer := l })
        started).streams[(0 : StreamId)] =
        .write { writer .nowait (some (assembly 1#16 false)) .opened with lingerTimer := l } := by decide +kernel

/-- Bank 0 OPEN with its row age timer run out. -/
def aged (o : Option OwnerRecord) : State :=
  started.setBank 0 { Bank.reset with state := .opened, openRow := some 0, owner := o, rowAge := some 0 }

theorem test_witness_RowAgeExpiryClosesOrMarks :
    ((aged none).resetLow = false ∧ (aged none).seq.banks[(0 : BankId)].rowAge = some 0 ∧
      (aged none).seq.banks[(0 : BankId)].owner = none ∧ (aged none).seq.banks[(0 : BankId)].state = .opened ∧
      (aged none).seq.hasDue 0 = false) ∧
    ((aged (some (owning .fetch))).seq.banks[(0 : BankId)].rowAge = some 0 ∧
      (aged (some (owning .fetch))).seq.banks[(0 : BankId)].owner = some (owning .fetch)) := by decide +kernel

/-- A debt with the interval timer run out. -/
def owing (debt : Nat) : State := { started with renewal := { debt := debt, interval := some 0, active := false } }

theorem test_witness_RenewalsAreOwedAndStart :
    (∀ d ∈ [0, 7, 8], (owing d).resetLow = false ∧ (owing d).renewal.interval = some 0) ∧
    ((owing 1).seq.memory = .started ∧ 1 ≤ (owing 1).renewal.debt ∧ (owing 1).renewal.active = false ∧
      (owing 1).seq.wide = .none ∧ (∀ b : BankId, (owing 1).seq.banks[b].owner = none) ∧
      ∀ p : Fin 10, (owing 1).requestAt p = none) ∧
    (¬ 1 ≤ (owing 0).renewal.debt ∧ settleStep (owing 0) = none) ∧
    ((bank0 .reading (some (owning .fetch)) (owing 6)).seq.memory = .started ∧
      6 ≤ (bank0 .reading (some (owning .fetch)) (owing 6)).renewal.debt ∧
      (bank0 .reading (some (owning .fetch)) (owing 6)).renewal.active = false ∧
      (bank0 .reading (some (owning .fetch)) (owing 6)).seq.banks[(0 : BankId)].owner ≠ none) := by decide +kernel

theorem test_witness_AddressDivision :
    (16777215 : Nat) < 16777216 ∧ (16777215 : Nat) < 4096 * 4096 ∧ (4194303 : Nat) < 1024 * 4096 := by decide

/-- Bank 0 OPEN for its owner's burst, at the head of the burst order with the data bus held. -/
def readyToBurst (op : MemOp) : State :=
  (due0 .burst (bank0 .opened (some (owning op)) started)).mapSeq fun q =>
    { q with burstOrder := [0], dataBus := some 0 }

/-- Soft reset has called for CLOSE ALL, with a number of bank steps before it; bank 0 is OPEN with no owner. -/
def calledFor (ahead : Nat) (due : List (BankId × BankStep)) (rowAge : Option Nat) : State :=
  (started.setBank 0 { Bank.reset with state := .opened, openRow := some 0, rowAge := rowAge }).mapSeq fun q =>
    { q with resetCloseAll := some ahead, due := due }

theorem test_witness_BankStepsDriveThePins :
    (calledFor 0 [(0, .closeRow)] none).closeAllReady = true ∧
    ((due0 .openRow (fetching .closed)).closeAllReady = false ∧ (due0 .closeRow (fetching .opened)).closeAllReady = false ∧
      ∀ op ∈ [MemOp.fetch, .store], (readyToBurst op).closeAllReady = false) ∧
    ((due0 .openRow (fetching .closed)).resetLow = false ∧ (due0 .openRow (fetching .closed)).seq.due = [(0, .openRow)] ∧
      (due0 .openRow (fetching .closed)).seq.banks[(0 : BankId)].state = .closed ∧
      (due0 .openRow (fetching .closed)).seq.memory = .started ∧
      (due0 .openRow (fetching .closed)).seq.banks[(0 : BankId)].owner = some (owning .fetch)) ∧
    ((due0 .closeRow (fetching .opened)).seq.due = [(0, .closeRow)] ∧
      (due0 .closeRow (fetching .opened)).seq.banks[(0 : BankId)].state = .opened) ∧
    (∀ op ∈ [MemOp.fetch, .store],
      (readyToBurst op).resetLow = false ∧ (readyToBurst op).seq.due = [(0, .burst)] ∧
      (readyToBurst op).seq.banks[(0 : BankId)].state = .opened ∧
      (readyToBurst op).seq.banks[(0 : BankId)].owner = some (owning op) ∧
      (readyToBurst op).seq.banks[(0 : BankId)].openRow = some (rowOf (owning op).line) ∧
      (readyToBurst op).seq.burstOrder = 0 :: [] ∧ (readyToBurst op).seq.dataBus = some 0 ∧ (owning op).op = op) := by
  decide +kernel

/-- A renewal in progress. -/
def renewing (s : State) : State := { s with renewal := { debt := 6, interval := some 15, active := true } }

theorem test_witness_WideStepsDriveThePins :
    (startingUp .closeCalled).startCloseReady = true ∧
    ((renewing (bank0 .opened none started)).startCloseReady = false ∧
      (renewing (bank0 .opened none started)).closeAllReady = true ∧
      (calledFor 0 [(0, .closeRow)] none).closeAllReady = true ∧ (calledFor 1 [(0, .closeRow)] none).closeAllReady = false) ∧
    (renewing started).renewAllReady = true ∧ (startingUp (.renewCalled false)).renewAllReady = true ∧
    ((startingUp .loadCalled).loadOptionsReady = true ∧ (startingUp .loadCalled).timing.readLatency = 3) ∧
    (startingUp .loadCalled).resetLow = false ∧
    (started.startCloseReady = false ∧ started.closeAllReady = false ∧ started.renewAllReady = false ∧
      started.loadOptionsReady = false) := by decide +kernel

/-- A CLOSE ALL called for before the CLK period in which a row's age runs out goes out first, and closes the row
(R106). -/
theorem test_close_all_goes_out_before_a_close_row_due_later :
    ((after (step (calledFor 0 [] (some 0)))).map fun t => (t.pins.command, t.seq.banks[(0 : BankId)].state, t.seq.due)) =
      some (pinsCloseAll, .closing, []) := by decide +kernel

/-- A CLOSE ROW that became due before the CLOSE ALL, or with it, goes out first (R106). -/
theorem test_close_all_goes_out_after_the_bank_steps_due_before_it :
    ((after (step (calledFor 1 [(0, .closeRow)] none))).map fun t => (t.pins.command, t.seq.resetCloseAll)) =
      some (pinsCloseRow 0, some 0) := by decide +kernel

theorem test_witness_IntervalEndsMoveTheBanks :
    ((fetching .opening).resetLow = false ∧ (fetching .opening).seq.banks[(0 : BankId)].state = .opening ∧
      (fetching .opening).seq.banks[(0 : BankId)].owner = some (owning .fetch) ∧ 0 ∉ (fetching .opening).seq.burstOrder) ∧
    ((bank0 .opening none started).seq.banks[(0 : BankId)].state = .opening ∧
      (bank0 .opening none started).seq.banks[(0 : BankId)].owner = none) ∧
    ((fetching .closing).seq.banks[(0 : BankId)].state = .closing ∧ (fetching .closing).seq.hasDue 0 = false) ∧
    ((bank0 .closing none started).seq.banks[(0 : BankId)].state = .closing ∧
      (bank0 .closing none started).seq.banks[(0 : BankId)].owner = none) ∧
    (storing .writing).seq.banks[(0 : BankId)].state = .writing ∧
    ((wideStep .renewing (renewing started)).seq.wide = .renewing ∧
      (wideStep .renewing (renewing started)).renewal.active = true ∧
      (wideStep .renewing (renewing started)).startUp = .none) ∧
    ((fetching .reading).seq.hasDue 0 = false ∧ (fetching .reading).seq.banks[(0 : BankId)].closeDue = false ∧
      (fetching .reading).timing.rowPolicy = .keepOpen) ∧
    { TimingSet.reset with rowPolicy := .closeAfter }.rowPolicy = .closeAfter := by decide +kernel

/-- Bank 0 reading for an owner record. -/
def returning (o : OwnerRecord) (c : Stream) : State := bank0 .reading (some o) (stream0 c started)

/-- The reader whose entry is in flight. -/
def awaiting : Stream := .read (reader .stop (.wait 5) 0 [entry .inFlight])

theorem test_witness_FetchReturnHandsTheMergedLineOn :
    (∀ o ∈ [owning .fetch, { owning .fetch with discard := true }, { owning .fetch with position := 9 },
        { owning .fetch with line := 16777216 }],
      (returning o awaiting).resetLow = false ∧ (returning o awaiting).seq.banks[(0 : BankId)].state = .reading ∧
      (returning o awaiting).seq.banks[(0 : BankId)].owner = some o ∧ o.op = .fetch ∧
      (returning o awaiting).streams[(0 : StreamId)] = awaiting) ∧
    (started.timing.rowsFitted * 4096 ≤ 16777216 ∧ (owning .fetch).line < started.timing.rowsFitted * 4096) ∧
    (∀ k : Fin 16, Config.blankLine[k] = Memory.read started.memory (0 + k.val)) ∧
    started.bus.waitingRead 0 = false ∧ (stretchedCycle .read 5 (returning (owning .fetch) awaiting)).bus.waitingRead 0 = true ∧
    (reader .stop (.wait 5) 0 [entry .filled]).ready = true := by decide +kernel

theorem test_witness_StoreCompletionWritesAndRemoves :
    ∀ o ∈ [owning .store, { owning .store with line := 16777216 }],
      (bank0 .recovering (some o) started).resetLow = false ∧
      (bank0 .recovering (some o) started).seq.banks[(0 : BankId)].state = .recovering ∧
      (bank0 .recovering (some o) started).seq.banks[(0 : BankId)].owner = some o ∧ o.op = .store ∧
      MemoryCanonical (bank0 .recovering (some o) started) ∧
      (o.line < started.timing.rowsFitted * 4096 ∨ started.timing.rowsFitted * 4096 ≤ o.line) := by decide +kernel

/-- Stream 0 presents a request for line 0. -/
def requesting (s : State) : State := stream0 (.read (reader .stop .nowait 0 [entry .requested])) s

/-- A SCAN that asks for its first line in buffer 0. -/
def asking (line : Nat) : State :=
  (running (.scan 0 0x00#8 0xFF#8 .onMatch) started).mapEngine fun e =>
    { e with buffers := e.buffers.set 0 (some { slot := 6, line := some line, state := .requested }) }

theorem test_witness_RequestGrantChoosesAndSetsOut :
    (started.resetLow = false ∧ ∀ p : Fin 10, started.requestAt p = none) ∧
    (∀ s ∈ [requesting started, requesting (bank0 .opened none started), requesting (bank0 .closing none started),
        requesting (due0 .closeRow (bank0 .opened none started))],
      s.resetLow = false ∧ ((s.requestAt 0).map fun q => s.eligible q) = some true ∧ s.requestAt 8 = none ∧
      s.seq.grantPos = 9 ∧ 0 ∉ s.seq.burstOrder) ∧
    (requesting (due0 .closeRow (bank0 .opened none started))).seq.hasDue 0 = true ∧
    (((withPosts fullPost started).requestAt 8).map fun q => q.priority && (withPosts fullPost started).eligible q) =
      some true ∧
    ((asking 0).resetLow = false ∧ ((asking 0).requestAt 9).map (fun q => (asking 0).eligible q) = some true ∧
      ∀ p : Fin 10, p ≠ 9 → (asking 0).requestAt p = none) := by decide +kernel

/-- The grant at position 9 puts the buffer IN_FLIGHT. -/
theorem test_requestGrant_puts_the_source_buffer_in_flight :
    ((after (exec .requestGrant (asking 0))).map fun t => (t.engine.buffers[0].map fun x => x.state)) =
      some (some .inFlight) := by decide +kernel

/-- One claim waits. -/
def claiming (c : Fin 9) (x : Claim) (s : State) : State :=
  s.withPool { s.pool with claims := s.pool.claims.set c.val (some x) }

/-- The engine ACQUIRING for a SCAN. -/
def acquiring (w : Work) (s : State) : State := s.mapEngine fun e => { e with state := .acquiring (job w).started }

/-- Ten slots are FREE. -/
def tenFree (s : State) : State := (List.finRange 10).foldl (fun t k => t.release (k.castLE (by decide))) (noFree s)

/-- Stream 0 BLOCKED with reason NO_SLOT, under WAIT. -/
def blockedWriter : State := stream0 (.write (writer (.wait 5) none (.blocked .noSlot))) started

theorem test_witness_SlotGrantChoosesByClassAndTurn :
    (started.resetLow = false ∧ (∀ c : Fin 9, started.pool.claims[c] = none) ∧ (noFree started).pool.freeCount = 0 ∧
      (tenFree started).pool.freeCount = 10) ∧
    (∀ x ∈ [({ cls := .readAhead, purpose := .read } : Claim), { cls := .essential, purpose := .read }],
      (claiming 0 x started).pool.claims[(0 : Fin 9)] = some x ∧
      (∀ c : Fin 9, c ≠ 0 → (claiming 0 x started).pool.claims[c] = none) ∧
      (claiming 0 x started).pool.slots[(0 : SlotId)].owner = .free ∧ 11 ≤ (claiming 0 x started).pool.freeCount) ∧
    ((stream0 (.read (reader .stop .nowait 0 [])) started).streams[(0 : StreamId)] = .read (reader .stop .nowait 0 []) ∧
      (reader .stop .nowait 0 []).fetchNeed = true) ∧
    (blockedWriter.streams[(0 : StreamId)] = .write (writer (.wait 5) none (.blocked .noSlot)) ∧
      (stretchedCycle (.write 0xAB#8) 5 blockedWriter).bus = .stretched 0 (.write 0xAB#8) 5 ∧
      blockedWriter.bus = .idle) ∧
    (∀ w ∈ [Work.copy 0 8, .copy 8 0, .scan 0 0 0 .onMatch],
      (acquiring w started).engine.state = .acquiring (job w).started ∧
      (acquiring w started).engine.buffers[(0 : Fin 2)] = none) ∧
    (job (.fill 0 0)).started.destChunk = some { lo := 0, hi := 15 } ∧
    ((∀ c : Fin 9, started.pool.claims[c] = started.claimOf c) ∧
      blockedWriter.pool.claims[(0 : Fin 9)] ≠ blockedWriter.claimOf 0) ∧
    (running (.fill 0 0) started).engine.dest = none := by decide +kernel

/-- A byte that waits in a stretched cycle is placed in the event of the grant, and the cycle is answered. -/
theorem test_slotGrant_places_the_byte_that_waits :
    ((after (exec .slotGrant (claiming 0 { cls := .essential, purpose := .assembly }
        (stretchedCycle (.write 0xAB#8) 5 blockedWriter)))).map fun t => (t.bus, (t.bytesOf 0)[0])) =
      some (.answered none, 0xAB#8) := by decide +kernel

/-- A held post of stream 0. -/
def holding (st : WriteState) (s : State) : State := stream0 (.write (writer (.wait 5) (some (assembly 1#16 true)) st)) s

/-- Origin 0 holds a post for line 0 that a full Post Queue cannot take, and origin 1 one for line 4096 that
merges. -/
def passedOver : State :=
  (holding (.blocked .postFull) (withPosts fullPost started)).setStream 1
    (.write (writer (.wait 5) (some { assembly 1#16 true with line := 4096, slot := 2 }) (.blocked .postFull)))

theorem test_witness_HeldPostsAndDrainsComplete :
    (∀ st ∈ [WriteState.blocked .postFull, .draining, .ended],
      (holding st started).resetLow = false ∧
      (holding st started).streams[(0 : StreamId)] = .write (writer (.wait 5) (some (assembly 1#16 true)) st) ∧
      ((holding st started).acceptPost 0 1#16 1).isSome = true ∧ (holding st started).bus.waitingWrite 0 = none) ∧
    (stretchedCycle (.write 0xAB#8) 5 (holding (.blocked .postFull) started)).bus.waitingWrite 0 ≠ none ∧
    ((destination true (running (.fill 0 0) started)).engine.dest.map fun d => d.held) = some true ∧
    ((destination true (running (.fill 0 0) started)).acceptPost 0 0xFFFF#16 2).isSome = true ∧
    (∀ o : Fin 9, o.val < 8 → (destination true (running (.fill 0 0) started)).heldAt o = none) ∧
    (∀ o : Fin 9, started.heldAt o = none) ∧
    (∀ p, passedOver.heldAt 0 = some p → passedOver.acceptPost p.line p.mask p.slot = none) ∧
    (passedOver.heldAt 1).isSome = true ∧ (passedOver.acceptPost 4096 1#16 2).isSome = true ∧
    (∀ c ∈ [LongCommand.flush, .seek, .close],
      (executing c (stream0 (.write (writer .nowait none .draining)) started)).port.state =
        .executing { command := c, params := started.port.param } ∧
      (executing c (stream0 (.write (writer .nowait none .draining)) started)).streams[(0 : StreamId)] =
        .write (writer .nowait none .draining)) := by
  refine ⟨by decide +kernel, by decide +kernel, by decide +kernel, by decide +kernel, by decide +kernel,
    by decide +kernel, fun p h => ?_, by decide +kernel, by decide +kernel, by decide +kernel⟩
  have held : passedOver.heldAt 0 = some { line := 0, mask := 1#16, slot := 1 } := by decide +kernel
  have refused : passedOver.acceptPost 0 1#16 1 = none := by decide +kernel
  rw [held] at h
  cases h
  exact refused

/-- The later origin's post is taken past the earlier one that cannot be. -/
theorem test_heldPostAcceptance_passes_over :
    ((after (exec .heldPostAcceptance passedOver)).map fun t => (t.heldAt 0).isSome && (t.heldAt 1).isNone) =
      some true := by decide +kernel

theorem test_witness_JobsStartAndEnd :
    (∀ w ∈ [Work.fill 0 0, .copy 0 16],
      (withJobs [job w] started).resetLow = false ∧ (withJobs [job w] started).engine.state = .idle ∧
      (withJobs [job w] started).engine.jobs = job w :: []) ∧
    (started.engine.jobs = [] ∧ started.engine.state = .idle) ∧
    (∀ k ∈ [0, 3, 4], (withRecords (List.replicate k oneRecord) (running (.fill 0 0) started)).engine.state =
      .running { (job (.fill 0 0)).started with direction := some .ascending }) ∧
    (filled 0 0 (filled 1 16 (destination false (running (.copy 0 64) started)))).engine.anyBuffer
      (fun b => b.state = .inFlight) = false := by decide +kernel

theorem test_witness_DestinationLineIsBuiltAndPosted :
    (∀ s ∈ [destination false (running (.fill 0 0x5A#8) started),
        destination false (filled 0 16 (running (.copy 16 0) started)),
        withPosts fullPost (destination false (running (.fill 0 0x5A#8) started))],
      s.resetLow = false ∧ (s.engine.dest.map fun d => d.held) = some false ∧
      (s.engine.working.map fun j => decide (j.progress < j.job.length)) = some true) ∧
    (∀ x, 0 ≤ x → x < 0 + 16 →
      (filled 0 16 (running (.copy 16 0) started)).engine.slotOfLine (lineOf (x + 16 - 0)) = some 0) ∧
    min (16 - 0 % 16) (16 - 0) = 16 ∧
    (job (.fill 0 0)).started.progress + 16 = (job (.fill 0 0)).length ∧ (job (.fill 0 0)).started.cancel = false ∧
    (job (.fill 0 0)).started.progress + 8 ≠ (job (.fill 0 0)).length := by
  refine ⟨by decide +kernel, fun x _ h => ?_, by decide⟩
  have key : ∀ y : Fin 16, (filled 0 16 (running (.copy 16 0) started)).engine.slotOfLine
      (lineOf (y.val + 16 - 0)) = some 0 := by decide +kernel
  exact key ⟨x, by omega⟩

/-- A RUNNING job that holds both source buffers, EMPTY. -/
def twoBuffers (w : Work) : State :=
  (running w started).mapEngine fun e =>
    { e with buffers := #v[some { slot := 6, line := none, state := .empty }, some { slot := 7, line := none, state := .empty }] }

theorem test_witness_ScanAndCompareDecide :
    (∀ s ∈ [filled 0 0 (running (.scan 0 0x00#8 0xFF#8 .onMatch) started),
        filled 0 0 (filled 1 16 (running (.compare 0 16) started))],
      s.resetLow = false ∧ (s.engine.working.map fun j => decide (j.outcome = none ∧ j.cancel = false ∧ j.progress <
        j.job.length)) = some true) ∧
    (filled 0 0 (running (.scan 0 0x00#8 0xFF#8 .onMatch) started)).engine.slotOfLine (lineOf (0 + 0)) = some 0 ∧
    (filled 0 0 (filled 1 16 (running (.compare 0 16) started))).engine.buffers[(0 : Fin 2)] =
      some { slot := 0, line := some (lineOf (0 + 0)), state := .filled } ∧
    (filled 0 0 (filled 1 16 (running (.compare 0 16) started))).engine.buffers[(1 : Fin 2)] =
      some { slot := 1, line := some (lineOf (16 + 0)), state := .filled } ∧
    ((asking 16).requestAt 9).map (fun q => (asking 16).eligible q) = some true ∧
    (∀ w ∈ [Work.copy 0 64, .scan 0 0x00#8 0xFF#8 .onMatch, .compare 0 16],
      (twoBuffers w).engine.state = .running { (job w).started with direction := some .ascending } ∧
      ∀ (m : Fin 2), ((twoBuffers w).engine.buffers[m].map fun y => y.state) = some .empty) := by decide +kernel

/-- With both buffers EMPTY the first source line of a COPY, a SCAN or a COMPARE goes into buffer 0. -/
theorem test_witness_ScanAndCompareDecide_source_lines :
    ∀ w ∈ [Work.copy 0 64, .scan 0 0x00#8 0xFF#8 .onMatch, .compare 0 16],
      SourceLineFor (twoBuffers w).engine { (job w).started with direction := some .ascending } 0 0 := by
  intro w hw
  have empty : ∀ v ∈ [Work.copy 0 64, .scan 0 0x00#8 0xFF#8 .onMatch, .compare 0 16], ∀ m : Fin 2,
      ∀ y ∈ (twoBuffers v).engine.buffers[m], y.line = none ∧ y.state = .empty := by decide +kernel
  have noEarlier : ∀ m : Fin 2, ¬ m < 0 := by decide
  simp only [List.mem_cons, List.not_mem_nil, or_false] at hw
  rcases hw with rfl | rfl | rfl
  · refine ⟨.ascending, rfl, ⟨[], [], by decide, by simp⟩, ?_, ⟨_, rfl, .inl rfl, fun _ _ h => by cases h⟩,
      fun m _ h => (noEarlier m h).elim⟩
    rintro ⟨m, y, hy, hl, _⟩
    rw [(empty _ (by simp) m y hy).1] at hl
    cases hl
  · exact ⟨by decide, .inl ⟨rfl, fun m y hy => (empty _ (by simp) m y hy).1⟩,
      ⟨_, rfl, .inl rfl, fun _ h => by cases h⟩, fun m _ h => (noEarlier m h).elim⟩
  · exact .inl ⟨rfl, rfl, _, rfl, .inl rfl, fun h => by cases h.2⟩

/-- The owner record of a fetch. -/
def fetchFor (position : Fin 10) (line : Nat) (slot : SlotId) : OwnerRecord :=
  { position := position, op := .fetch, line := line, slot := slot, mask := 0#16, discard := false }

/-- A SCAN of lines 0 and 16 whose fetch of line 0 returns in bank 0. -/
def scanning : State :=
  bank0 .reading (some (fetchFor 9 0 6)) ((twoBuffers (.scan 0 0x00#8 0xFF#8 .onMatch)).mapEngine fun e =>
    { e with
      state := .running { (job (.scan 0 0x00#8 0xFF#8 .onMatch)).started with
        job := { job (.scan 0 0x00#8 0xFF#8 .onMatch) with length := 32 } }
      buffers := e.buffers.set 0 (some { slot := 6, line := some 0, state := .inFlight }) })

/-- The next line is asked for, granted and IN_FLIGHT before the line that returned is examined, so a hit there
leaves a fetch in flight (R151; the return of line 000 in the second worked example of 08). -/
theorem test_scan_examines_after_the_next_fetch_has_set_out :
    ((after (exec (.fetchReturn 0) scanning)).map fun t =>
      (t.engine.active.map ActiveJob.outcome, t.engine.buffers.toList.map fun b => b.map SourceBuffer.state)) =
      some (some (some (.found, 0)), [some .filled, some .inFlight]) := by decide +kernel

theorem test_witness_PatchOnAcceptReachesEveryFilledEntry :
    (stream0 (.read (reader .stop .nowait 0 [entry .filled])) started).streams[(0 : StreamId)] =
      .read (reader .stop .nowait 0 [entry .filled]) ∧
    entry .filled ∈ (reader .stop .nowait 0 [entry .filled]).queue ∧ (entry .filled).line = 0 ∧
    (entry .filled).state = .filled ∧ (entry .filled).slot ≠ 1 := by decide +kernel

theorem test_witness_CurrentValueFollowsAcceptedPosts :
    (OneWaitingPerLine (withPosts [post0 .waiting] started) ∧
      ∃ t, (withPosts [post0 .waiting] started).acceptPost 0 0x0001#16 1 = some t) ∧
    ((∀ e ∈ [post0 .waiting], e.slot ≠ 1) ∧ ([post0 .waiting].map PostEntry.slot).Nodup ∧
      (withPosts [post0 .waiting] started).post.oldestWaiting = some (post0 .waiting) ∧
      (∀ n : StreamId, (withPosts [post0 .waiting] started).streams[n] = .closed)) ∧
    (MemoryCanonical (withPosts [post0 .retiring] started) ∧
      post0 .retiring ∈ (withPosts [post0 .retiring] started).post.entries ∧ (post0 .retiring).line % 16 = 0) :=
  ⟨⟨oneWaiting_of_count (by decide +kernel), _, rfl⟩, by decide +kernel, by decide +kernel⟩

theorem test_witness_BusAccessesLeaveTheRest :
    Instr.sync.wellFormed = true ∧ busAccessOf .sync = some (.command, .write 0x08#8) ∧
    State.reset.port.state ≠ .resetting ∧ ∃ t, exec .sync State.reset = .next t :=
  ⟨rfl, rfl, by decide, runs (by decide +kernel)⟩

theorem test_witness_EventRowsKeepTheFrozenPart :
    (∃ t, exec (.fetchReturn 0) (returning (owning .fetch) awaiting) = .next t) ∧
    (∃ t, exec (.storeComplete 0) (storing .recovering) = .next t) ∧
    settleStep started = none ∧ (settleStep blockedWriter).isSome = true :=
  ⟨runs (by decide +kernel), runs (by decide +kernel), by decide +kernel, by decide +kernel⟩

theorem test_witness_MemoryChangesOnlyAtStoresAndPinReset :
    Instr.fetchReturn 0 ≠ .pinReset ∧ ∃ t, exec (.fetchReturn 0) (returning (owning .fetch) awaiting) = .next t :=
  ⟨by decide, runs (by decide +kernel)⟩

/-- A store completes at the next step. -/
def completingStep : State := { storing .recovering with pending := [.storeComplete 0] }

theorem test_witness_EveryStepKeepsMemoryCanonical :
    MemoryCanonical completingStep ∧ ∃ t, step completingStep = .next t := ⟨by decide +kernel, runs (by decide +kernel)⟩

/-- A read stream with a FILLED entry for line 0 in slot 0 and one IN_FLIGHT for line 16 in slot 5. -/
def busyReader : ReadStream :=
  reader .stop .nowait 0 [entry .filled, { slot := 5, line := 16, state := .inFlight }]

/-- A post for line 0 WAITING in slot 4, and one for line 32 RETIRING in slot 3. -/
def busyPosts : List PostEntry :=
  [{ line := 32, mask := 0x0001#16, slot := 3, state := .retiring, tag := false },
   { line := 0, mask := 0x00FF#16, slot := 4, state := .waiting, tag := false }]

/-- The owner record of the store of line 32. -/
def busyStore : OwnerRecord := { position := 8, op := .store, line := 32, slot := 3, mask := 0x0001#16, discard := false }

/-- Bank 1 fetches for stream 0, bank 2 stores, bank 3 fetches for the Move Engine; the store completes at the
next step. -/
def busy : State :=
  { started with
    pending := [.storeComplete 2]
    streams := started.streams.set 0 (.read busyReader)
    pool := (((((started.own 0 (.read 0)).own 5 (.read 0)).own 3 .post).own 4 .post).own 6 (.jobSource 0)).pool
    post := { started.post with entries := busyPosts }
    engine := { started.engine with
      state := .running (job (.scan 48 0 0 .onMatch)).started
      buffers := started.engine.buffers.set 0 (some { slot := 6, line := some 48, state := .inFlight }) }
    seq := { started.seq with banks := #v[Bank.reset,
      { Bank.reset with state := .reading, openRow := some 0, owner := some (fetchFor 0 16 5), left := 9 },
      { Bank.reset with state := .recovering, openRow := some 0, owner := some busyStore },
      { Bank.reset with state := .opened, openRow := some 0, owner := some (fetchFor 9 48 6) }] } }

theorem busy_reads {n : StreamId} {r : ReadStream} (h : busy.streams[n] = .read r) : n = 0 ∧ r = busyReader := by
  have table : ∀ m : StreamId, busy.streams[m] = if m = 0 then .read busyReader else .closed := by decide +kernel
  rw [table n] at h
  split at h
  · next hn => cases h; exact ⟨hn, rfl⟩
  · cases h

theorem busy_no_writes {n : StreamId} {w : WriteStream} (h : busy.streams[n] = .write w) : False := by
  have table : ∀ m : StreamId, busy.streams[m] = if m = 0 then .read busyReader else .closed := by decide +kernel
  rw [table n] at h
  split at h <;> cases h

theorem busy_slots : SlotsLawful busy where
  readOwned n r e h he := by
    obtain ⟨rfl, rfl⟩ := busy_reads h
    exact (by decide +kernel : ∀ e ∈ busyReader.queue, busy.pool.slots[e.slot].owner = .read 0) e he
  readApart n r h := by
    obtain ⟨rfl, rfl⟩ := busy_reads h
    decide
  assemblyOwned n w a h := (busy_no_writes h).elim
  postOwned := by decide +kernel
  postApart := by decide +kernel
  sourceOwned k x h := (by decide +kernel : ∀ k : Fin 2, ∀ x ∈ busy.engine.buffers[k],
    busy.pool.slots[x.slot].owner = .jobSource k) k x h
  destOwned d h := (by decide +kernel : ∀ d ∈ busy.engine.dest, busy.pool.slots[d.slot].owner = .jobDest) d h
  discardOwned b o h := (by decide +kernel : ∀ b : BankId, ∀ o ∈ busy.seq.banks[b].owner,
    o.op = .fetch → o.discard = true → busy.pool.slots[o.slot].owner = .discard) b o h
  discardApart b c o p h _ _ _ hd := by
    have kept : ∀ b : BankId, ∀ o ∈ busy.seq.banks[b].owner, o.discard = false := by decide +kernel
    rw [kept b o h] at hd
    cases hd

theorem busy_operations : OperationsLawful busy where
  ownBank b o h := (by decide +kernel : ∀ b : BankId, ∀ o ∈ busy.seq.banks[b].owner, bankOf o.line = b) b o h
  fetchServed b o h hf _ := by
    have table : ∀ b : BankId, ∀ o ∈ busy.seq.banks[b].owner, o.op = .fetch →
      o = fetchFor 0 16 5 ∨ o = fetchFor 9 48 6 := by decide +kernel
    rcases table b o h hf with rfl | rfl
    · exact .inl ⟨0, busyReader, rfl, rfl, by decide⟩
    · exact .inr ⟨rfl, 0, _, rfl, rfl, rfl, rfl⟩
  storeServed b o h := (by decide +kernel : ∀ b : BankId, ∀ o ∈ busy.seq.banks[b].owner, o.op = .store →
    ∃ e ∈ busyPosts, e.state = .retiring ∧ e.line = o.line ∧ e.slot = o.slot ∧ e.mask = o.mask) b o h
  entryUnderWay n r e h he hs := by
    obtain ⟨rfl, rfl⟩ := busy_reads h
    have table : ∀ e ∈ busyReader.queue, e.state = .inFlight → e = { slot := 5, line := 16, state := .inFlight } := by
      decide
    rw [table e he hs]
    exact ⟨fetchFor 0 16 5, rfl, rfl, rfl, rfl, rfl, rfl⟩
  bufferUnderWay k x h hs := by
    have table : ∀ k : Fin 2, ∀ x ∈ busy.engine.buffers[k], x = { slot := 6, line := some 48, state := .inFlight } := by
      decide +kernel
    rw [table k x h]
    exact ⟨48, rfl, fetchFor 9 48 6, rfl, rfl, rfl, rfl, rfl, rfl⟩
  retiringUnderWay e he hs := by
    have table : ∀ e ∈ busyPosts, e.state = .retiring → e = { line := 32, mask := 0x0001#16, slot := 3, state := .retiring, tag := false } := by
      decide
    rw [table e he hs]
    exact ⟨_, rfl, rfl, rfl, rfl, rfl⟩
  writingStores b h := (by decide +kernel : ∀ b : BankId, busy.seq.banks[b].state = .writing ∨
    busy.seq.banks[b].state = .recovering → ∃ o ∈ busy.seq.banks[b].owner, o.op = .store) b h
  sourceClaimed c x k h _ := by
    have none : ∀ c : Fin 9, busy.pool.claims[c] = none := by decide +kernel
    rw [none c] at h
    cases h

theorem busy_held : SlotsHeld busy := by
  have table : ∀ k : SlotId, busy.pool.slots[k].owner = .free ∨
      (busy.pool.slots[k].owner = .read 0 ∧ ∃ e ∈ busyReader.queue, e.slot = k) ∨
      (busy.pool.slots[k].owner = .post ∧ ∃ e ∈ busyPosts, e.slot = k) ∨
      (busy.pool.slots[k].owner = .jobSource 0 ∧ k = 6) := by decide +kernel
  refine ⟨?_, ?_, ?_, ?_, ?_, ?_, ?_, ?_⟩
  · intro k n h
    rcases table k with ho | ⟨ho, e, he, hk⟩ | ⟨ho, _⟩ | ⟨ho, _⟩ <;> rw [ho] at h <;> cases h
    exact ⟨busyReader, e, rfl, he, hk⟩
  · intro k n h
    rcases table k with ho | ⟨ho, _⟩ | ⟨ho, _⟩ | ⟨ho, _⟩ <;> rw [ho] at h <;> cases h
  · intro k h
    rcases table k with ho | ⟨ho, _⟩ | ⟨ho, held⟩ | ⟨ho, _⟩ <;> rw [ho] at h <;> cases h
    exact held
  · intro k i h
    rcases table k with ho | ⟨ho, _⟩ | ⟨ho, _⟩ | ⟨ho, rfl⟩ <;> rw [ho] at h <;> cases h
    exact ⟨_, rfl, rfl⟩
  · intro k h
    rcases table k with ho | ⟨ho, _⟩ | ⟨ho, _⟩ | ⟨ho, _⟩ <;> rw [ho] at h <;> cases h
  · intro k h
    rcases table k with ho | ⟨ho, _⟩ | ⟨ho, _⟩ | ⟨ho, _⟩ <;> rw [ho] at h <;> cases h
  · intro n w h
    exact (busy_no_writes h).elim
  · intro c x h
    have none : ∀ c : Fin 9, busy.pool.claims[c] = none := by decide +kernel
    rw [none c] at h
    cases h

theorem test_witness_FreeCountAccountsForEverySlot :
    (started.pool.slots[(0 : SlotId)].owner = .free ∧ Owner.post ≠ .free ∧
      (noFree started).pool.slots[(47 : SlotId)].owner ≠ .free) ∧
    ({ started with resetLow := true }.resetLow = true ∧
      ∃ t, exec .pinResetRelease { started with resetLow := true } = .next t) ∧
    SlotsLawful busy ∧ SlotsHeld busy ∧ busy.pool.freeCount = 43 :=
  ⟨by decide +kernel, ⟨rfl, runs (by decide +kernel)⟩, busy_slots, busy_held, by decide +kernel⟩

theorem busy_coherent : Coherent busy where
  slots := busy_slots
  operations := busy_operations
  waiting := oneWaiting_of_count (by decide +kernel)
  lines :=
    { reads := fun n r h => by
        obtain ⟨rfl, rfl⟩ := busy_reads h
        decide
      assemblies := fun n w a h => (busy_no_writes h).elim
      posts := by decide +kernel
      destination := fun d h => by cases h }
  memory := rfl
  filled n r e h he hs := by
    obtain ⟨rfl, rfl⟩ := busy_reads h
    exact (by decide +kernel : ∀ e ∈ busyReader.queue, e.state = .filled →
      ∀ i : Fin 16, (busy.bytesOf e.slot)[i] = busy.currentValue (e.line + i.val)) e he hs

theorem test_witness_EveryStepKeepsQueueAndCounterLaws :
    (QueuesWithinCapacity completingStep ∧ OneWaitingPerLine completingStep ∧ ReadAheadLawful completingStep ∧
      DebtCapped completingStep ∧ ∃ t, step completingStep = .next t) ∧
    SlotsLawful busy ∧ OperationsLawful busy ∧ SlotsHeld busy ∧ ResettingQuiet busy ∧ Coherent busy ∧
    ∃ t, step busy = .next t :=
  ⟨⟨by decide +kernel, oneWaiting_of_count (by decide +kernel),
    fun n => by
      have closed : ∀ m : StreamId, completingStep.streams[m] = .closed := by decide +kernel
      rw [closed n]
      trivial,
    by decide +kernel, runs (by decide +kernel)⟩,
    busy_slots, busy_operations, busy_held, (fun h => by cases h), busy_coherent, runs (by decide +kernel)⟩

theorem test_witness_EveryStepKeepsBankLaws :
    BanksLawful completingStep ∧ ∃ t, step completingStep = .next t :=
  ⟨⟨by decide +kernel, by decide +kernel, by decide +kernel, by decide +kernel⟩, runs (by decide +kernel)⟩

end Sys2Proof.Tests
end

/-! PROOFS. The family of 01_streams_and_windows.md: the answer of a misused data port (R17), the checks of
OPEN_READ and OPEN_WRITE in their order (R11), and the picture that QUERY_STREAM reports (R18, R19). -/

namespace Sys2Proof.Proofs.Streams

open Sys2Proof Sys2Proof.Machine Sys2Proof.Safety Sys2Proof.Laws

variable {s : State} {n : StreamId} {p : Params}

/-! ### Commands taken in IDLE -/

/-- A row that is a write of COMMAND, taken in IDLE, runs on the captured parameter block with the cycle
answered (R162, R163). -/
theorem exec_command {i : Instr} {code : Byte} (h : busAccessOf i = some (.command, .write code))
    (take : TakesCommand s) : exec i s = .next (runCommand code s.port.param (answeredWrite s)) := by
  rw [exec_access h, ← busWrite_command take]
  rfl

theorem exec_openRead (take : TakesCommand s) :
    exec .openRead s = .next ((answeredWrite s).openStream s.port.param (Params.readContext s.port.param)) :=
  exec_command (i := .openRead) (code := 0x01#8) rfl take

theorem exec_openWrite (take : TakesCommand s) :
    exec .openWrite s = .next ((answeredWrite s).openStream s.port.param (Params.writeContext s.port.param)) :=
  exec_command (i := .openWrite) (code := 0x02#8) rfl take

theorem exec_queryStream (take : TakesCommand s) :
    exec .queryStream s = .next (runQueryStream s.port.param (answeredWrite s)) :=
  exec_command (i := .queryStream) (code := 0x06#8) rfl take

/-! ### Data ports (R17) -/

/-- A read of DATAn, when an access can begin. -/
theorem exec_dataPortRead (h : s.accessCanBegin = true) (n : StreamId) :
    exec (.dataPortRead n) s = .next (dataRead n s) := by
  simp [exec_access (i := .dataPortRead n) rfl, busAccess, busRead, h]

/-- A write of DATAn, when an access can begin. -/
theorem exec_dataPortWrite (h : s.accessCanBegin = true) (n : StreamId) (v : Byte) :
    exec (.dataPortWrite n v) s = .next (dataWrite n v s) := by
  simp [exec_access (i := .dataPortWrite n v) rfl, busAccess, busWrite, h]

theorem dataRead_misuse (running : s.port.state ≠ .resetting)
    (h : s.streams[n] = .closed ∨ ∃ w, s.streams[n] = .write w) :
    dataRead n s = s.misuse (some 0x00#8) := by
  rcases h with h | ⟨w, h⟩ <;> simp [dataRead, isResetting_eq_false running, h]

theorem dataWrite_misuse (running : s.port.state ≠ .resetting) (v : Byte)
    (h : s.streams[n] = .closed ∨ ∃ r, s.streams[n] = .read r) :
    dataWrite n v s = s.misuse none := by
  rcases h with h | ⟨r, h⟩ <;> simp [dataWrite, isResetting_eq_false running, h]

/-- An ENDED read stream is not READY, so its read is answered with the fill byte (R49). -/
theorem dataRead_ended (running : s.port.state ≠ .resetting) {r : ReadStream} (h : s.streams[n] = .read r)
    (ended : r.ended = true) : dataRead n s = s.underrun n r := by
  simp [dataRead, isResetting_eq_false running, h, ReadStream.ready, State.starvedRead, ended]

/-- A byte written to an ENDED or DRAINING write stream is dropped (R67). -/
theorem dataWrite_dropped (running : s.port.state ≠ .resetting) (v : Byte) {w : WriteStream}
    (h : s.streams[n] = .write w) (away : w.state = .ended ∨ w.state = .draining) :
    dataWrite n v s = (s.withBus (.answered none)).overrun n := by
  rcases away with away | away <;>
    simp [dataWrite, isResetting_eq_false running, h, writeStreamWrite, State.writeTurnedAway, away]

@[simp] theorem underrun_events (s : State) (n : StreamId) (r : ReadStream) :
    (s.underrun n r).events = s.events := rfl

@[simp] theorem underrun_flag (s : State) (n : StreamId) (r : ReadStream) :
    (s.underrun n r).streamFlags[n].underrun = true := by
  simp [State.underrun, StreamFlags.setUnderrun]

@[simp] theorem overrun_events (s : State) (n : StreamId) : (s.overrun n).events = s.events := rfl

@[simp] theorem overrun_flag (s : State) (n : StreamId) : (s.overrun n).streamFlags[n].overrun = true := by
  simp [State.overrun, StreamFlags.setOverrun]

/-! ### The parameters of OPEN_READ and OPEN_WRITE (R9 to R11) -/

theorem endPolicy_eq_none_iff : p.endPolicy = none ↔ 1 < p.byteAt 7 := by
  unfold Params.endPolicy
  split_ifs <;> simp only [false_iff, true_iff] <;> omega

theorem waitPolicy_eq_none_iff : p.waitPolicy = none ↔ 1 < p.byteAt 8 ∨ (p.byteAt 8 = 1 ∧ p.byteAt 9 = 0) := by
  unfold Params.waitPolicy
  split_ifs <;> simp only [false_iff, true_iff] <;> omega

/-- The window is refused exactly when a policy is out of its range. -/
theorem window_eq_none_iff : p.window = none ↔ BadPolicies p := by
  rw [BadPolicies, ← endPolicy_eq_none_iff, ← waitPolicy_eq_none_iff]
  unfold Params.window
  split
  · next he hw => simp [he, hw]
  · next h =>
    cases he : p.endPolicy with
    | none => simp
    | some e =>
      cases hw : p.waitPolicy with
      | none => simp
      | some w => exact (h e w he hw).elim

/-- The window of an OPEN runs from the first address field to the second. -/
theorem window_addresses {w : Window} (h : p.window = some w) :
    w.first = p.addressAt 1 ∧ w.last = p.addressAt 4 := by
  unfold Params.window at h
  split at h
  · cases h
    exact ⟨rfl, rfl⟩
  · cases h

theorem depth_eq_none_iff : p.depth = none ↔ p.byteAt 10 = 0 ∨ 8 < p.byteAt 10 := by
  unfold Params.depth
  split_ifs <;> simp only [false_iff, true_iff] <;> omega

/-- OPEN_READ fails check 3 exactly when its window or its depth does. -/
theorem readContext_eq_none_iff :
    p.readContext = none ↔ BadPolicies p ∨ p.byteAt 10 = 0 ∨ 8 < p.byteAt 10 := by
  rw [← window_eq_none_iff, ← depth_eq_none_iff]
  unfold Params.readContext
  split <;> simp [*]

/-- OPEN_READ passes check 3 with good policies and a depth of 1 to 8. -/
theorem readContext_ne_none (good : ¬ BadPolicies p) (low : 1 ≤ p.byteAt 10) (high : p.byteAt 10 ≤ 8) :
    p.readContext ≠ none := by
  rw [Ne, readContext_eq_none_iff, not_or]
  exact ⟨good, by omega⟩

/-- OPEN_WRITE fails check 3 exactly when its window does. -/
theorem writeContext_eq_none_iff : p.writeContext = none ↔ BadPolicies p := by
  rw [← window_eq_none_iff]
  unfold Params.writeContext
  split <;> simp [*]

theorem window_of_readContext {w : Window} {c : Stream} (h : p.readContext = some (w, c)) : p.window = some w := by
  unfold Params.readContext at h
  split at h <;> cases h
  assumption

theorem window_of_writeContext {w : Window} {c : Stream} (h : p.writeContext = some (w, c)) : p.window = some w := by
  unfold Params.writeContext at h
  split at h <;> cases h
  assumption

/-- Check 5 of R11 on a window taken from the parameters. -/
theorem window_valid_iff {w : Window} (h : p.window = some w) (s : State) :
    w.valid s.timing.fittedSize = true ↔ WindowFits p s := by
  obtain ⟨first, last⟩ := window_addresses h
  simp [Window.valid, first, last, TimingSet.fittedSize]

/-! ### The checks of R11, one after the other -/

section
variable {made : Option (Window × Stream)}

theorem openStream_badStream (h : 8 ≤ p[0].toNat) : s.openStream p made = completedWith s .badStream := by
  simp [State.openStream, stream_none h, complete_eq]

theorem openStream_wrongState (hn : p[0].toNat = n.val) (h : s.streams[n] ≠ .closed) :
    s.openStream p made = completedWith s .wrongState := by
  cases hs : s.streams[n] with
  | closed => exact (h hs).elim
  | read r => simp [State.openStream, stream_of_param hn, hs, complete_eq]
  | write w => simp [State.openStream, stream_of_param hn, hs, complete_eq]

theorem openStream_badParam (hn : p[0].toNat = n.val) (closed : s.streams[n] = .closed) :
    s.openStream p none = completedWith s .badParam := by
  simp [State.openStream, stream_of_param hn, closed, complete_eq]

theorem openStream_closed (hn : p[0].toNat = n.val) (closed : s.streams[n] = .closed) (w : Window) (c : Stream) :
    s.openStream p (some (w, c)) = s.openContext n w c := by
  simp [State.openStream, stream_of_param hn, closed]

/-- Check 4 comes before check 5: nothing is said of the window. -/
theorem openStream_notStarted (hn : p[0].toNat = n.val) (closed : s.streams[n] = .closed) (passed : made ≠ none)
    (h : s.seq.memory ≠ .started) : s.openStream p made = completedWith s .notStarted := by
  obtain ⟨⟨w, c⟩, rfl⟩ := Option.ne_none_iff_exists'.mp passed
  simp [openStream_closed hn closed, State.openContext, h, complete_eq]

theorem openStream_outOfWindow (hn : p[0].toNat = n.val) (closed : s.streams[n] = .closed) (passed : made ≠ none)
    (ofParams : ∀ w c, made = some (w, c) → p.window = some w) (started : s.seq.memory = .started)
    (h : ¬ WindowFits p s) : s.openStream p made = completedWith s .outOfWindow := by
  obtain ⟨⟨w, c⟩, rfl⟩ := Option.ne_none_iff_exists'.mp passed
  have invalid : ¬ w.valid s.timing.fittedSize = true := fun v => h ((window_valid_iff (ofParams w c rfl) s).mp v)
  simp [openStream_closed hn closed, State.openContext, started, invalid, complete_eq]

end

/-! ### The picture of a stream (R18, R19) -/

theorem runQueryStream_badStream (h : 8 ≤ p[0].toNat) : runQueryStream p s = completedWith s .badStream := by
  simp [runQueryStream, stream_none h, complete_eq]

theorem runQueryStream_picture (hn : p[0].toNat = n.val) :
    runQueryStream p s = completedWith (s.writeResults s.streams[n].picture) .ok := by
  simp [runQueryStream, stream_of_param hn, complete_eq]

/-- The three bytes of a number, low byte first. -/
theorem byteOfNumber_zero (a : Nat) : byteOfNumber a 0 = BitVec.ofNat 8 a := by simp [byteOfNumber]

theorem byteOfNumber_one (a : Nat) : byteOfNumber a 1 = BitVec.ofNat 8 (a / 256) := by simp [byteOfNumber]

theorem byteOfNumber_two (a : Nat) : byteOfNumber a 2 = BitVec.ofNat 8 (a / 65536) := by simp [byteOfNumber]

theorem picture_read (r : ReadStream) : (Stream.read r).picture =
    #v[(Stream.read r).stateCode, BitVec.ofNat 8 r.queue.length, BitVec.ofNat 8 r.cursor,
       BitVec.ofNat 8 (r.cursor / 256), BitVec.ofNat 8 (r.cursor / 65536), BitVec.ofNat 8 r.fetchCursor,
       BitVec.ofNat 8 (r.fetchCursor / 256), BitVec.ofNat 8 (r.fetchCursor / 65536)] := by
  simp only [Stream.picture, queryResult, Stream.heldCount, byteOfNumber_zero, byteOfNumber_one, byteOfNumber_two]

theorem picture_write (w : WriteStream) : (Stream.write w).picture =
    #v[(Stream.write w).stateCode, BitVec.ofNat 8 (Stream.write w).heldCount, BitVec.ofNat 8 w.cursor,
       BitVec.ofNat 8 (w.cursor / 256), BitVec.ofNat 8 (w.cursor / 65536), 0x00#8, 0x00#8, 0x00#8] := by
  simp only [Stream.picture, queryResult, byteOfNumber_zero, byteOfNumber_one, byteOfNumber_two, Nat.zero_div]

/-- The state codes of a read stream (R19). -/
theorem stateCode_read (r : ReadStream) :
    (r.ended = true → (Stream.read r).stateCode = 0x13#8) ∧
    (r.ended = false → r.headFilled = true → (Stream.read r).stateCode = 0x12#8) ∧
    (r.ended = false → r.headFilled = false → (Stream.read r).stateCode = 0x11#8) :=
  ⟨fun e => by simp [Stream.stateCode, e], fun e f => by simp [Stream.stateCode, e, f],
    fun e f => by simp [Stream.stateCode, e, f]⟩

/-- The state codes of a write stream (R19). -/
theorem stateCode_write (w : WriteStream) :
    (w.state = .opened → (Stream.write w).stateCode = 0x21#8) ∧
    (w.state = .blocked .postFull → (Stream.write w).stateCode = 0x22#8) ∧
    (w.state = .blocked .noSlot → (Stream.write w).stateCode = 0x23#8) ∧
    (w.state = .draining → (Stream.write w).stateCode = 0x24#8) ∧
    (w.state = .ended → (Stream.write w).stateCode = 0x25#8) := by
  refine ⟨?_, ?_, ?_, ?_, ?_⟩ <;> intro h <;> simp only [Stream.stateCode, h]

theorem heldCount_write_none {w : WriteStream} (h : w.assembly = none) : (Stream.write w).heldCount = 0 := by
  simp only [Stream.heldCount, h]

theorem heldCount_write_some {w : WriteStream} {a : Assembly} (h : w.assembly = some a) :
    (Stream.write w).heldCount = ((List.range 16).filter fun i => a.mask.getLsbD i).length := by
  simp only [Stream.heldCount, h, maskCount]

/-! ### The statements -/

/-- Settles O13, by the branches of a data port access outside RESETTING. -/
theorem misusedDataPortAnswersAndFlags : Obligations.MisusedDataPortAnswersAndFlags := by
  unfold Obligations.MisusedDataPortAnswersAndFlags
  rintro n v s ⟨begins, running⟩
  refine ⟨fun h => ?_, fun h => ?_, fun r h ended => ?_, fun w h away => ?_⟩
  · rw [exec_dataPortRead begins, dataRead_misuse running h]
    rfl
  · rw [exec_dataPortWrite begins, dataWrite_misuse running v h]
    rfl
  · rw [exec_dataPortRead begins, dataRead_ended running h ended]
    exact ⟨_, rfl, underrun_events s n r, underrun_flag s n r⟩
  · rw [exec_dataPortWrite begins, dataWrite_dropped running v h away]
    exact ⟨_, rfl, overrun_events _ n, overrun_flag _ n⟩

/-- Settles O21: the two rows share the checks of R11, and differ in what check 3 asks of the parameters. -/
theorem openChecksInOrder : Obligations.OpenChecksInOrder := by
  unfold Obligations.OpenChecksInOrder
  intro s take
  simp only [exec_openRead take, exec_openWrite take]
  refine ⟨fun h => ⟨congrArg _ (openStream_badStream h), congrArg _ (openStream_badStream h)⟩,
    fun n hn => ⟨fun h => ?_, fun closed => ⟨fun bad => ?_, fun bad => ?_, fun good => ?_⟩⟩⟩
  · have taken : (answeredWrite s).streams[n] ≠ .closed := h
    exact ⟨congrArg _ (openStream_wrongState hn taken), congrArg _ (openStream_wrongState hn taken)⟩
  · rw [readContext_eq_none_iff.mpr bad, openStream_badParam (s := answeredWrite s) hn closed]
  · rw [writeContext_eq_none_iff.mpr bad, openStream_badParam (s := answeredWrite s) hn closed]
  · have readPasses := readContext_ne_none good
    have writePasses := mt writeContext_eq_none_iff.mp good
    refine ⟨fun stopped => ⟨fun low high => ?_, ?_⟩, fun started out => ⟨fun low high => ?_, ?_⟩⟩
    · exact congrArg _ (openStream_notStarted hn closed (readPasses low high) stopped)
    · exact congrArg _ (openStream_notStarted hn closed writePasses stopped)
    · exact congrArg _ (openStream_outOfWindow hn closed (readPasses low high)
        (fun _ _ => window_of_readContext) started out)
    · exact congrArg _ (openStream_outOfWindow hn closed writePasses
        (fun _ _ => window_of_writeContext) started out)

/-- Settles O26: the RESULT bytes are the stream's picture. -/
theorem queryStreamReportsThePicture : Obligations.QueryStreamReportsThePicture := by
  unfold Obligations.QueryStreamReportsThePicture
  intro s take
  rw [exec_queryStream take]
  refine ⟨fun h => by rw [runQueryStream_badStream h], fun n hn => ⟨s.streams[n].picture, ?_, ?_, ?_, ?_⟩⟩
  · rw [runQueryStream_picture hn]
    rfl
  · intro h
    rw [h]
    rfl
  · intro r h
    obtain ⟨ended, ready, empty⟩ := stateCode_read r
    simp only [h, picture_read]
    exact ⟨ended, ready, empty, rfl, rfl, rfl, rfl, rfl, rfl, rfl⟩
  · intro w h
    obtain ⟨opened, postFull, noSlot, draining, ended⟩ := stateCode_write w
    simp only [h, picture_write]
    exact ⟨opened, postFull, noSlot, draining, ended, fun absent => congrArg (BitVec.ofNat 8) (heldCount_write_none absent),
      fun _ held => congrArg (BitVec.ofNat 8) (heldCount_write_some held), rfl, rfl, rfl, rfl, rfl, rfl⟩

end Sys2Proof.Proofs.Streams

/-! PROOFS. The family of 02_the_line_pool.md: the free count (R22). The owners of the 48 slots, as a list, are counted
owner by owner; under the laws of slots each owner's slots are, up to order, the list of those its holders hold. -/

namespace Sys2Proof.Proofs.LinePool

open Sys2Proof Sys2Proof.Machine Sys2Proof.Safety Sys2Proof.Laws

variable {s : State}

/-! ### The owners of the slots -/

/-- The owners of the slots, in the slots' order. -/
def owners (p : Pool) : List Owner := p.slots.toList.map Slot.owner

@[simp] theorem length_owners (p : Pool) : (owners p).length = 48 := by simp [owners]

@[simp] theorem getElem_owners (p : Pool) (k : SlotId) (h : k.val < (owners p).length) :
    (owners p)[k.val] = p.slots[k].owner := by simp [owners]

theorem owners_eq_map_finRange (p : Pool) : owners p = (List.finRange 48).map fun k => p.slots[k].owner :=
  List.ext_getElem (by simp) fun i _ _ => by simp [owners]

theorem freeCount_eq_count (p : Pool) : p.freeCount = (owners p).count .free := by
  rw [owners, List.count, List.countP_map, List.countP_eq_length_filter]
  rfl

/-- Counting slots by their owner is counting in the list of owners. -/
theorem length_filter_owner (p : Pool) (f : Owner → Bool) :
    ((List.finRange 48).filter fun k => f p.slots[k].owner).length = (owners p).countP f := by
  rw [owners_eq_map_finRange, List.countP_map, List.countP_eq_length_filter]
  rfl

/-- The slots of one owner, counted as the statement counts them. -/
def ownedBy (s : State) (o : Owner) : Nat := ((List.finRange 48).filter fun k => s.pool.slots[k].owner = o).length

theorem ownedBy_eq_count (s : State) (o : Owner) : ownedBy s o = (owners s.pool).count o :=
  length_filter_owner s.pool fun x => decide (x = o)

theorem freeCount_of_all_free {p : Pool} (h : ∀ k : SlotId, p.slots[k].owner = .free) : p.freeCount = 48 := by
  rw [freeCount_eq_count, ← length_owners p, List.count_eq_length, owners_eq_map_finRange]
  simpa using fun k => (h k).symm

/-! ### Grants, releases and transfers (R22, R28, R29) -/

theorem owners_own (s : State) (k : SlotId) (o : Owner) : owners (s.own k o).pool = (owners s.pool).set k.val o := by
  rw [own_pool, owners, Vector.toList_set, List.map_set]
  rfl

/-- One slot changes hands: the free count loses it if it was FREE and gains it if it is now. -/
theorem freeCount_own (s : State) (k : SlotId) (o : Owner) :
    (s.own k o).pool.freeCount + (if s.pool.slots[k].owner = .free then 1 else 0) =
      s.pool.freeCount + (if o = .free then 1 else 0) := by
  have hk : k.val < (owners s.pool).length := by simp
  have counted : s.pool.slots[k].owner = .free → 0 < (owners s.pool).count .free := fun h =>
    List.count_pos_iff.mpr (h ▸ getElem_owners s.pool k hk ▸ List.getElem_mem hk)
  rw [freeCount_eq_count, freeCount_eq_count, owners_own, List.count_set hk, getElem_owners]
  by_cases h : s.pool.slots[k].owner = .free
  · have := counted h
    simp only [h, beq_self_eq_true, if_true, beq_iff_eq]
    omega
  · simp only [h, beq_iff_eq, if_false]
    omega

/-! ### Pin reset (R31) -/

theorem freeCount_reset : State.reset.pool.freeCount = 48 :=
  freeCount_of_all_free fun k => by simp [State.reset, State.pinResetValues]

theorem freeCount_rise (s : State) : s.rise.pool.freeCount = 48 :=
  freeCount_of_all_free fun k => by simp [State.rise, State.pinResetValues, Pool.freed]

/-! ### The owner kinds (R21) -/

def isRead : Owner → Bool
  | .read _ => true
  | _ => false

def isAssembly : Owner → Bool
  | .assembly _ => true
  | _ => false

def isJob : Owner → Bool
  | .jobSource _ => true
  | .jobDest => true
  | _ => false

/-- Every owner is of exactly one kind. -/
theorem length_eq_countP_by_kind (l : List Owner) :
    l.count .free + l.countP isRead + l.countP isAssembly + l.countP (· == .post) + l.countP isJob +
      l.countP (· == .discard) = l.length := by
  induction l with
  | nil => rfl
  | cons o l ih =>
    cases o <;> simp [List.countP_cons, isRead, isAssembly, isJob] <;> omega

/-- Every owner is exactly one of FREE, the eight streams' two kinds, POST, the Move Engine's three and DISCARD. -/
theorem length_eq_count_by_owner (l : List Owner) :
    l.count .free + (∑ n : StreamId, (l.count (.read n) + l.count (.assembly n))) + l.count .post +
      l.count (.jobSource 0) + l.count (.jobSource 1) + l.count .jobDest + l.count .discard = l.length := by
  induction l with
  | nil => simp
  | cons o l ih =>
    cases o with
    | jobSource k => fin_cases k <;> simp <;> omega
    | _ => simp [List.count_cons, Finset.sum_add_distrib] at ih ⊢; omega

/-! ### The holders of the slots (R21) -/

/-- The slots of a stream's read-ahead entries. -/
def readSlots : Stream → List SlotId
  | .read r => r.queue.map ReadEntry.slot
  | .write _ => []
  | .closed => []

/-- The slot of a stream's assembly. -/
def assemblySlots : Stream → List SlotId
  | .write w => (w.assembly.map Assembly.slot).toList
  | .read _ => []
  | .closed => []

/-- A bank's fetch, if it is discarded. -/
def discarded (r : Bank) : Option OwnerRecord := r.owner.filter fun o => o.op = .fetch ∧ o.discard = true

/-- The slots that the holders of an owner kind hold. -/
def holderSlots (s : State) : Owner → List SlotId
  | .free => []
  | .read n => readSlots s.streams[n]
  | .assembly n => assemblySlots s.streams[n]
  | .post => s.post.entries.map PostEntry.slot
  | .jobSource k => (s.engine.buffers[k].map SourceBuffer.slot).toList
  | .jobDest => (s.engine.dest.map DestLine.slot).toList
  | .discard => (List.finRange 4).filterMap fun b => (discarded s.seq.banks[b]).map OwnerRecord.slot

theorem mem_readSlots {c : Stream} {k : SlotId} :
    k ∈ readSlots c ↔ ∃ (r : ReadStream) (e : ReadEntry), c = .read r ∧ e ∈ r.queue ∧ e.slot = k := by
  cases c <;> simp [readSlots]

theorem mem_assemblySlots {c : Stream} {k : SlotId} :
    k ∈ assemblySlots c ↔ ∃ (w : WriteStream) (a : Assembly), c = .write w ∧ w.assembly = some a ∧ a.slot = k := by
  cases c <;> simp [assemblySlots]

theorem discarded_eq_some {r : Bank} {o : OwnerRecord} :
    discarded r = some o ↔ r.owner = some o ∧ o.op = .fetch ∧ o.discard = true := by
  simp [discarded, Option.filter_eq_some_iff]

theorem mem_holderSlots_discard {k : SlotId} : k ∈ holderSlots s .discard ↔
    ∃ (b : BankId) (o : OwnerRecord), s.seq.banks[b].owner = some o ∧ o.op = .fetch ∧ o.discard = true ∧ o.slot = k := by
  simp [holderSlots, discarded_eq_some, and_assoc]

/-- Under the laws of slots, what the holders of an owner kind hold is what that owner owns. -/
theorem mem_holderSlots (lawful : SlotsLawful s) (held : SlotsHeld s) {o : Owner} (owned : o ≠ .free) (k : SlotId) :
    k ∈ holderSlots s o ↔ s.pool.slots[k].owner = o := by
  constructor
  · intro h
    cases o with
    | free => exact absurd rfl owned
    | read n =>
      obtain ⟨r, e, hr, he, rfl⟩ := mem_readSlots.mp h
      exact lawful.readOwned n r e hr he
    | assembly n =>
      obtain ⟨w, a, hw, ha, rfl⟩ := mem_assemblySlots.mp h
      exact lawful.assemblyOwned n w a hw ha
    | post =>
      obtain ⟨e, he, rfl⟩ := List.mem_map.mp h
      exact lawful.postOwned e he
    | jobSource i =>
      obtain ⟨x, hx, rfl⟩ := Option.map_eq_some_iff.mp (Option.mem_toList.mp h)
      exact lawful.sourceOwned i x hx
    | jobDest =>
      obtain ⟨d, hd, rfl⟩ := Option.map_eq_some_iff.mp (Option.mem_toList.mp h)
      exact lawful.destOwned d hd
    | discard =>
      obtain ⟨b, o, ho, hop, hd, rfl⟩ := mem_holderSlots_discard.mp h
      exact lawful.discardOwned b o ho hop hd
  · intro h
    cases o with
    | free => exact absurd rfl owned
    | read n => exact mem_readSlots.mpr (held.readHeld k n h)
    | assembly n => exact mem_assemblySlots.mpr (held.assemblyHeld k n h)
    | post => exact List.mem_map.mpr (held.postHeld k h)
    | jobSource i => exact Option.mem_toList.mpr (Option.map_eq_some_iff.mpr (held.sourceHeld k i h))
    | jobDest => exact Option.mem_toList.mpr (Option.map_eq_some_iff.mpr (held.destHeld k h))
    | discard => exact mem_holderSlots_discard.mpr (held.discardHeld k h)

/-- Under the laws of slots no two holders hold one slot. -/
theorem nodup_holderSlots (lawful : SlotsLawful s) (o : Owner) : (holderSlots s o).Nodup := by
  cases o with
  | free => exact List.nodup_nil
  | read n =>
    change (readSlots s.streams[n]).Nodup
    cases hr : s.streams[n] with
    | read r => exact lawful.readApart n r hr
    | write w => exact List.nodup_nil
    | closed => exact List.nodup_nil
  | assembly n =>
    change (assemblySlots s.streams[n]).Nodup
    cases s.streams[n] with
    | write w => exact Option.toList_nodup _
    | read r => exact List.nodup_nil
    | closed => exact List.nodup_nil
  | post => exact lawful.postApart
  | jobSource k => exact Option.toList_nodup _
  | jobDest => exact Option.toList_nodup _
  | discard =>
    refine (List.nodup_finRange 4).filterMap fun b c k hb hc => ?_
    obtain ⟨o, ho, rfl⟩ := Option.map_eq_some_iff.mp hb
    obtain ⟨p, hp, same⟩ := Option.map_eq_some_iff.mp hc
    obtain ⟨ob, ofetch, odiscard⟩ := discarded_eq_some.mp ho
    obtain ⟨pb, pfetch, pdiscard⟩ := discarded_eq_some.mp hp
    exact lawful.discardApart b c o p ob pb ofetch pfetch odiscard pdiscard same.symm

/-- Each owner owns exactly as many slots as its holders hold. -/
theorem ownedBy_eq_length_holderSlots (lawful : SlotsLawful s) (held : SlotsHeld s) (o : Owner) (owned : o ≠ .free) :
    ownedBy s o = (holderSlots s o).length := by
  refine List.Perm.length_eq ((List.perm_ext_iff_of_nodup ?_ (nodup_holderSlots lawful o)).mpr fun k => ?_)
  · exact (List.nodup_finRange 48).filter _
  · simp [mem_holderSlots lawful held owned]

/-! ### How many slots the holders hold -/

/-- The slots that a stream's context calls for, counted as the statement counts them. -/
def streamHolds : Stream → Nat
  | .read r => r.queue.length
  | .write w => if w.assembly.isSome then 1 else 0
  | .closed => 0

/-- A bank's fetch is discarded, as the statement asks it. -/
def holdsDiscard (r : Bank) : Bool :=
  match r.owner with
  | some o => decide (o.op = .fetch ∧ o.discard = true)
  | none => false

theorem isSome_discarded (r : Bank) : (discarded r).isSome = holdsDiscard r := by
  unfold discarded holdsDiscard
  cases r.owner with
  | none => rfl
  | some o => simp [Option.isSome_filter]

theorem length_streamSlots (c : Stream) : (readSlots c).length + (assemblySlots c).length = streamHolds c := by
  cases c <;> simp [readSlots, assemblySlots, streamHolds, Option.length_toList]

/-- The discarded fetches in the bank table. -/
def discardCount (s : State) : Nat := ((List.finRange 4).filter fun b => holdsDiscard s.seq.banks[b]).length

theorem length_discardSlots (s : State) : (holderSlots s .discard).length = discardCount s := by
  simp [holderSlots, discardCount, List.length_filterMap_eq_countP, List.countP_eq_length_filter, isSome_discarded]

section
variable (lawful : SlotsLawful s) (held : SlotsHeld s)
include lawful held

theorem ownedBy_stream (n : StreamId) :
    ownedBy s (.read n) + ownedBy s (.assembly n) = streamHolds s.streams[n] := by
  rw [ownedBy_eq_length_holderSlots lawful held (.read n) nofun,
    ownedBy_eq_length_holderSlots lawful held (.assembly n) nofun]
  exact length_streamSlots _

theorem ownedBy_assembly_of_read {n : StreamId} {r : ReadStream} (h : s.streams[n] = .read r) :
    ownedBy s (.assembly n) = 0 := by
  rw [ownedBy_eq_length_holderSlots lawful held (.assembly n) nofun, holderSlots, h]
  rfl

theorem ownedBy_read_of_write {n : StreamId} {w : WriteStream} (h : s.streams[n] = .write w) :
    ownedBy s (.read n) = 0 := by
  rw [ownedBy_eq_length_holderSlots lawful held (.read n) nofun, holderSlots, h]
  rfl

theorem ownedBy_post : ownedBy s .post = s.post.entries.length := by
  rw [ownedBy_eq_length_holderSlots lawful held .post nofun, holderSlots, List.length_map]

theorem ownedBy_jobSource (k : Fin 2) :
    ownedBy s (.jobSource k) = if s.engine.buffers[k].isSome then 1 else 0 := by
  rw [ownedBy_eq_length_holderSlots lawful held (.jobSource k) nofun, holderSlots, Option.length_toList,
    Option.isSome_map]

theorem ownedBy_jobDest : ownedBy s .jobDest = if s.engine.dest.isSome then 1 else 0 := by
  rw [ownedBy_eq_length_holderSlots lawful held .jobDest nofun, holderSlots, Option.length_toList, Option.isSome_map]

theorem ownedBy_discard : ownedBy s .discard = discardCount s := by
  rw [ownedBy_eq_length_holderSlots lawful held .discard nofun, length_discardSlots]

/-- The free count with what every holder holds is 48 (R22). -/
theorem freeCount_add_held : s.pool.freeCount + ((List.finRange 8).map fun n => streamHolds s.streams[n]).sum +
    s.post.entries.length + (if s.engine.buffers[(0 : Fin 2)].isSome then 1 else 0) +
    (if s.engine.buffers[(1 : Fin 2)].isSome then 1 else 0) + (if s.engine.dest.isSome then 1 else 0) +
    discardCount s = 48 := by
  have total := length_eq_count_by_owner (owners s.pool)
  rw [← freeCount_eq_count, length_owners] at total
  simp only [← ownedBy_eq_count] at total
  rwa [Finset.sum_congr rfl fun n _ => ownedBy_stream lawful held n, Fin.sum_univ_def, ownedBy_post lawful held,
    ownedBy_jobSource lawful held, ownedBy_jobSource lawful held, ownedBy_jobDest lawful held,
    ownedBy_discard lawful held] at total

end

/-- Settles O52: by the count of the slots' owners, owner by owner. -/
theorem freeCountAccountsForEverySlot : Obligations.FreeCountAccountsForEverySlot := by
  unfold Obligations.FreeCountAccountsForEverySlot
  refine ⟨freeCount_reset, ?_, fun s => ⟨?_, fun lawful held => ?_, ?_, ?_, ?_⟩⟩
  · intro s t low h
    have run : s.rise = t := by simpa [exec, execPinResetRelease, pinResetRelease, low] using h
    exact run ▸ freeCount_rise s
  · have kinds := length_eq_countP_by_kind (owners s.pool)
    rw [length_owners, ← freeCount_eq_count] at kinds
    simp only [← length_filter_owner] at kinds
    exact kinds
  · exact ⟨ownedBy_stream lawful held, fun _ _ => ownedBy_assembly_of_read lawful held,
      fun _ _ => ownedBy_read_of_write lawful held, ownedBy_post lawful held, ownedBy_jobSource lawful held,
      ownedBy_jobDest lawful held, ownedBy_discard lawful held, freeCount_add_held lawful held⟩
  · intro k o free taken
    have := freeCount_own s k o
    rwa [if_pos free, if_neg taken] at this
  · intro k taken
    have := freeCount_own s k .free
    rwa [if_neg taken, if_pos rfl] at this
  · intro k o taken kept
    have := freeCount_own s k o
    rwa [if_neg taken, if_neg kept] at this

end Sys2Proof.Proofs.LinePool

/-! PROOFS. The family of 03_read_streams.md: reads of ENDED and EMPTY streams (R47 to R49), and SEEK and CLOSE of a
read stream (R51, R52, R55). -/

namespace Sys2Proof.Proofs.ReadStreams

open Sys2Proof Sys2Proof.Machine Sys2Proof.Safety Sys2Proof.Laws Sys2Proof.Proofs.Streams

variable {s : State} {n : StreamId} {r : ReadStream} {p : Params} {line t : Nat}

/-! ### Reads of streams that are not READY (R47 to R49) -/

/-- The answer with the fill byte sets the bus and the stream's UNDERRUN, and nothing else. -/
theorem underrun_eq (s : State) (n : StreamId) (r : ReadStream) : s.underrun n r =
    { s with
      bus := .answered (some r.fill)
      streamFlags := s.streamFlags.set n.val { s.streamFlags[n] with underrun := true } } := rfl

/-- A stream that is not ENDED is READY exactly when its head is FILLED (R37), so an EMPTY one starves its read. -/
theorem dataRead_empty (running : s.port.state ≠ .resetting) (h : s.streams[n] = .read r)
    (empty : r.headFilled = false) : dataRead n s = s.starvedRead n r := by
  simp [dataRead, isResetting_eq_false running, h, ReadStream.ready, empty]

/-- Under NOWAIT the read of an EMPTY stream is answered at once (R47). -/
theorem starvedRead_nowait (notEnded : r.ended = false) (policy : r.window.waitPolicy = .nowait) :
    s.starvedRead n r = s.underrun n r := by
  simp [State.starvedRead, notEnded, policy]

/-- Under WAIT the read of an EMPTY stream waits for its wait limit (R47, R48). -/
theorem starvedRead_wait (notEnded : r.ended = false) {limit : Nat} (policy : r.window.waitPolicy = .wait limit) :
    s.starvedRead n r = s.withBus (.stretched n .read limit) := by
  simp [State.starvedRead, notEnded, policy]

/-! ### The queue at a SEEK (R51, R52) -/

/-- With no entry for the line, every entry stands before it. -/
theorem before_of_absent (absent : ∀ e ∈ r.queue, e.line ≠ line) : r.before line = r.queue :=
  List.takeWhile_eq_self_iff.mpr fun e he => decide_eq_true (absent e he)

/-- With no entry for the line, no entry is kept. -/
theorem from_of_absent (absent : ∀ e ∈ r.queue, e.line ≠ line) : r.from line = [] :=
  List.dropWhile_eq_nil_iff.mpr fun e he => decide_eq_true (absent e he)

/-- An entry for the line is kept. -/
theorem from_ne_nil_of_present (present : ∃ e ∈ r.queue, e.line = line) : r.from line ≠ [] := by
  obtain ⟨e, he, here⟩ := present
  intro none_kept
  exact of_decide_eq_true (List.dropWhile_eq_nil_iff.mp none_kept e he) here

/-- A retained seek keeps the fetch cursor (R51). -/
theorem seekRead_retained (present : ∃ e ∈ r.queue, e.line = lineOf t) : s.seekRead n r t =
    (s.releaseEntries (r.before (lineOf t))).setStream n
      (.read { r with cursor := t, queue := r.from (lineOf t), ended := false }) := by
  simp [State.seekRead, ReadStream.seekTo, from_ne_nil_of_present present]

/-- A full flush lets every entry go and sets the fetch cursor to the target's line (R52). -/
theorem seekRead_flushed (absent : ∀ e ∈ r.queue, e.line ≠ lineOf t) : s.seekRead n r t =
    (s.releaseEntries r.queue).setStream n
      (.read { r with cursor := t, queue := [], fetchCursor := lineOf t, ended := false }) := by
  simp [State.seekRead, ReadStream.seekTo, before_of_absent absent, from_of_absent absent]

/-! ### SEEK and CLOSE as commands (R50, R55) -/

theorem exec_seek (take : TakesCommand s) : exec .seek s = .next (runSeek s.port.param (answeredWrite s)) :=
  exec_command (i := .seek) (code := 0x03#8) rfl take

theorem exec_close (take : TakesCommand s) : exec .close s = .next (runClose s.port.param (answeredWrite s)) :=
  exec_command (i := .close) (code := 0x05#8) rfl take

/-- SEEK of a read stream to a target in its window (R50). -/
theorem runSeek_read (hn : p[0].toNat = n.val) (h : s.streams[n] = .read r) (target : p.target = t)
    (low : r.window.first ≤ t) (high : t ≤ r.window.last) :
    runSeek p s = State.finish s (completedWith (s.seekRead n r t) .ok) := by
  simp [runSeek, stream_of_param hn, h, Window.holds, target, low, high, complete_eq]

/-- CLOSE of a read stream (R55). -/
theorem runClose_read (hn : p[0].toNat = n.val) (h : s.streams[n] = .read r) :
    runClose p s = State.finish s (completedWith (s.closeRead n r) .ok) := by
  simp [runClose, stream_of_param hn, h, complete_eq]

/-! ### The statements -/

/-- Settles O15, by the branches of a starved read: ENDED, else the wait policy. -/
theorem readsOfStreamsThatAreNotReady : Obligations.ReadsOfStreamsThatAreNotReady := by
  unfold Obligations.ReadsOfStreamsThatAreNotReady
  constructor
  · rintro n r v s ⟨begins, running⟩ h
    constructor
    · intro ended
      rw [exec_dataPortRead begins, dataRead_ended running h ended, underrun_eq]
    · rw [exec_dataPortWrite begins, dataWrite_misuse running v (.inr ⟨r, h⟩)]
      rfl
  · rintro n r s ⟨begins, running⟩ h notEnded empty
    rw [exec_dataPortRead begins, dataRead_empty running h empty]
    constructor
    · intro nowait
      rw [starvedRead_nowait notEnded nowait, underrun_eq]
    · intro limit wait
      rw [starvedRead_wait notEnded wait]
      rfl

/-- Settles O24: SEEK by whether the queue holds an entry for the target's line, and CLOSE. -/
theorem seekAndCloseOfReadStream : Obligations.SeekAndCloseOfReadStream := by
  unfold Obligations.SeekAndCloseOfReadStream
  intro n r s take hn h
  have answered : (answeredWrite s).streams[n] = .read r := h
  constructor
  · intro t target low high
    rw [exec_seek take, runSeek_read hn answered target.symm low high]
    constructor
    · intro present
      rw [seekRead_retained present]
      rfl
    · intro absent
      rw [seekRead_flushed absent]
  · rw [exec_close take, runClose_read hn answered]
    rfl

end Sys2Proof.Proofs.ReadStreams

/-! PROOFS. The family of 04_write_streams_and_the_post_queue.md: the writes that are answered at once by dropping the
byte, and the grant to a BLOCKED stream (R65, R67). -/

namespace Sys2Proof.Proofs.WriteStreams

open Sys2Proof Sys2Proof.Machine Sys2Proof.Safety Sys2Proof.Laws Sys2Proof.Proofs.Streams

variable {s : State} {n : StreamId} {w : WriteStream}

/-! ### Dropped bytes (R67) -/

/-- Dropping the byte of an answered cycle sets the stream's OVERRUN, and nothing else. -/
theorem overrun_answered_eq (s : State) (n : StreamId) : (s.withBus (.answered none)).overrun n =
    { s with
      bus := .answered none
      streamFlags := s.streamFlags.set n.val { s.streamFlags[n] with overrun := true } } := rfl

/-- A byte written to a stream that is BLOCKED under NOWAIT is dropped, whatever blocks it. -/
theorem dataWrite_blocked_nowait (running : s.port.state ≠ .resetting) (v : Byte) (h : s.streams[n] = .write w)
    {why : BlockedReason} (blocked : w.state = .blocked why) (nowait : w.window.waitPolicy = .nowait) :
    dataWrite n v s = (s.withBus (.answered none)).overrun n := by
  simp [dataWrite, isResetting_eq_false running, h, writeStreamWrite, State.writeTurnedAway, blocked, nowait]

/-! ### The grant to a stream BLOCKED with reason NO_SLOT (R27, R65) -/

/-- With no byte waiting, a granted slot becomes the stream's empty assembly and no byte is placed. -/
theorem grantAssembly_of_no_byte (noByte : s.bus.waitingWrite n = none) (w : WriteStream) (k : SlotId) :
    s.grantAssembly n w k = (s.own k (.assembly n)).setStream n (.write (w.withAssembly k)) := by
  simp only [State.grantAssembly, noByte]

/-- The grant reaches a stream that is BLOCKED with reason NO_SLOT. -/
theorem grantWrite_of_noSlot (h : s.streams[n] = .write w) (blocked : w.state = .blocked .noSlot) (k : SlotId) :
    s.grantWrite n k = s.grantAssembly n w k := by
  simp only [State.grantWrite, h, blocked, if_true]

/-! ### The statements -/

/-- Settles O17, by the state of the stream that the write or the grant meets. -/
theorem droppedWritesSetOverrun : Obligations.DroppedWritesSetOverrun := by
  unfold Obligations.DroppedWritesSetOverrun
  rintro n v s ⟨begins, running⟩
  refine ⟨fun w h away => ?dropped, fun w k h blocked noByte => ?granted, fun closed => ?closed, fun w h => ?read⟩
  case dropped =>
    have drop : dataWrite n v s = (s.withBus (.answered none)).overrun n := by
      rcases away with ⟨⟨_, blocked⟩, nowait⟩ | ended_or_draining
      · exact dataWrite_blocked_nowait running v h blocked nowait
      · exact dataWrite_dropped running v h ended_or_draining
    rw [exec_dataPortWrite begins, drop, overrun_answered_eq]
  case granted =>
    rw [grantWrite_of_noSlot h blocked, grantAssembly_of_no_byte noByte]
    rfl
  case closed =>
    rw [exec_dataPortWrite begins, dataWrite_misuse running v (.inl closed)]
    rfl
  case read =>
    rw [exec_dataPortRead begins, dataRead_misuse running (.inr ⟨w, h⟩)]
    rfl

end Sys2Proof.Proofs.WriteStreams

/-! PROOFS. The family of 07_renewal_and_memory_start_up.md: the checks of SET_TIMING and the ten members it
replaces (R124, R125). -/

namespace Sys2Proof.Proofs.Renewal

open Sys2Proof Sys2Proof.Machine Sys2Proof.Safety Sys2Proof.Laws Sys2Proof.Proofs.Streams

variable {s : State} {p : Params}

/-! ### The timing set of the parameters (R124, R167) -/

/-- Every member of the timing set lies in its range, and every code has a meaning (R124, R167). -/
def TimingInRange (p : Params) : Prop :=
  1 ≤ p.byteAt 0 ∧ p.byteAt 0 ≤ 15 ∧ 1 ≤ p.byteAt 1 ∧ p.byteAt 1 ≤ 15 ∧ 2 ≤ p.byteAt 2 ∧ p.byteAt 2 ≤ 3 ∧
    1 ≤ p.byteAt 3 ∧ p.byteAt 3 ≤ 7 ∧ 2 ≤ p.byteAt 4 ∧ p.byteAt 4 ≤ 31 ∧ 1 ≤ p.byteAt 5 ∧ p.byteAt 5 ≤ 7 ∧
    1 ≤ p.byteAt 6 ∧ p.byteAt 6 ≤ 100 ∧ 1 ≤ p.byteAt 7 ∧ p.byteAt 7 ≤ 63 ∧
    1 ≤ p.byteAt 8 ∧ p.byteAt 8 ≤ 3 ∧ p.byteAt 9 ≤ 1

/-- The ten members as the parameters give them, for codes that have a meaning. -/
def timingMembers (p : Params) : TimingSet :=
  { openSettle := p.byteAt 0, closeSettle := p.byteAt 1, readLatency := p.byteAt 2, writeRecovery := p.byteAt 3,
    renewDuration := p.byteAt 4, optionLoad := p.byteAt 5, rowAgeLimit := p.byteAt 6, renewalInterval := p.byteAt 7,
    rowsFitted := if p[8] = 1#8 then 1024 else if p[8] = 2#8 then 2048 else 4096,
    rowPolicy := if p[9] = 0#8 then .keepOpen else .closeAfter }

/-- A field holds a code exactly when its number is the code's. -/
theorem byte_eq_iff_byteAt (p : Params) (i : Fin 16) (code : Byte) : p[i.val] = code ↔ p.byteAt i = code.toNat :=
  BitVec.toNat_inj.symm

theorem inRange_iff {i : Fin 16} {lo hi : Nat} : p.inRange i lo hi = true ↔ lo ≤ p.byteAt i ∧ p.byteAt i ≤ hi :=
  decide_eq_true_iff

theorem rowsFitted_eq_none_iff : p.rowsFitted = none ↔ p.byteAt 8 = 0 ∨ 3 < p.byteAt 8 := by
  unfold Params.rowsFitted
  split_ifs <;> simp only [false_iff, true_iff] <;> omega

theorem rowsFitted_of_code (low : 1 ≤ p.byteAt 8) (high : p.byteAt 8 ≤ 3) :
    p.rowsFitted = some (timingMembers p).rowsFitted := by
  have codes : p.byteAt 8 = 1 ∨ p.byteAt 8 = 2 ∨ p.byteAt 8 = 3 := by omega
  have is1 : p[8] = 1#8 ↔ p.byteAt 8 = 1 := byte_eq_iff_byteAt p 8 1#8
  have is2 : p[8] = 2#8 ↔ p.byteAt 8 = 2 := byte_eq_iff_byteAt p 8 2#8
  rcases codes with code | code | code <;> simp [Params.rowsFitted, timingMembers, is1, is2, code]

theorem rowPolicy_eq_none_iff : p.rowPolicy = none ↔ 1 < p.byteAt 9 := by
  unfold Params.rowPolicy
  split_ifs <;> simp only [false_iff, true_iff] <;> omega

theorem rowPolicy_of_code (high : p.byteAt 9 ≤ 1) : p.rowPolicy = some (timingMembers p).rowPolicy := by
  have codes : p.byteAt 9 = 0 ∨ p.byteAt 9 = 1 := by omega
  have is0 : p[9] = 0#8 ↔ p.byteAt 9 = 0 := byte_eq_iff_byteAt p 9 0#8
  rcases codes with code | code <;> simp [Params.rowPolicy, timingMembers, is0, code]

/-- A timing set comes only from parameters that are all in range (R125, check 2). -/
theorem timingInRange_of_timing {t : TimingSet} (h : p.timing = some t) : TimingInRange p := by
  unfold Params.timing at h
  split at h
  · next rows policy hrows hpolicy =>
    have rowsCoded : ¬ (p.byteAt 8 = 0 ∨ 3 < p.byteAt 8) := by simp [← rowsFitted_eq_none_iff, hrows]
    have policyCoded : ¬ 1 < p.byteAt 9 := by simp [← rowPolicy_eq_none_iff, hpolicy]
    split_ifs at h with ranges
    simp only [Bool.and_eq_true, inRange_iff] at ranges
    unfold TimingInRange
    omega
  · cases h

/-- Parameters that are all in range give all ten members. -/
theorem timing_of_inRange (h : TimingInRange p) : p.timing = some (timingMembers p) := by
  unfold TimingInRange at h
  have rows : p.rowsFitted = some (timingMembers p).rowsFitted := rowsFitted_of_code (by omega) (by omega)
  have policy : p.rowPolicy = some (timingMembers p).rowPolicy := rowPolicy_of_code (by omega)
  simp only [Params.timing, rows, policy]
  rw [if_pos (by simp only [Bool.and_eq_true, inRange_iff]; omega)]
  rfl

/-- One member out of its range leaves no timing set. -/
theorem timing_of_not_inRange (h : ¬ TimingInRange p) : p.timing = none :=
  Option.eq_none_iff_forall_ne_some.mpr fun _ timed => h (timingInRange_of_timing timed)

/-! ### SET_TIMING as a command (R125) -/

theorem exec_setTiming (take : TakesCommand s) :
    exec .setTiming s = .next (runSetTiming s.port.param (answeredWrite s)) :=
  exec_command (i := .setTiming) (code := 0x20#8) rfl take

/-- Check 1 comes before the ranges: nothing is said of the parameters. -/
theorem runSetTiming_wrongState (h : s.seq.memory ≠ .unstarted) :
    runSetTiming p s = completedWith s .wrongState := by
  simp [runSetTiming, h, complete_eq]

theorem runSetTiming_badParam (unstarted : s.seq.memory = .unstarted) (h : ¬ TimingInRange p) :
    runSetTiming p s = completedWith s .badParam := by
  simp [runSetTiming, unstarted, timing_of_not_inRange h, complete_eq]

theorem runSetTiming_ok (unstarted : s.seq.memory = .unstarted) (h : TimingInRange p) :
    runSetTiming p s = completedWith (s.withTiming (timingMembers p)) .ok := by
  simp [runSetTiming, unstarted, timing_of_inRange h, complete_eq]

/-! ### The statements -/

/-- Settles O31, by the two checks of R125 in their order. -/
theorem setTimingReplacesAllMembers : Obligations.SetTimingReplacesAllMembers := by
  unfold Obligations.SetTimingReplacesAllMembers
  intro s take
  rw [exec_setTiming take]
  constructor
  · intro notUnstarted
    rw [runSetTiming_wrongState (s := answeredWrite s) notUnstarted]
  · rintro unstarted p rfl
    constructor
    · intro outOfRange
      rw [runSetTiming_badParam (s := answeredWrite s) unstarted outOfRange]
    · intro inRange
      rw [runSetTiming_ok (s := answeredWrite s) unstarted inRange]
      rfl

end Sys2Proof.Proofs.Renewal

/-! PROOFS. The family of 08_the_move_engine.md: CANCEL_JOB with its two checks (R156), and TAKE_COMPLETION with the
record it reports (R154, R155). -/

namespace Sys2Proof.Proofs.MoveEngine

open Sys2Proof Sys2Proof.Machine Sys2Proof.Safety Sys2Proof.Laws Sys2Proof.Proofs.Streams

variable {s : State} {p : Params} {e : Engine} {j : ActiveJob} {tag : Byte}

theorem exec_cancelJob (take : TakesCommand s) :
    exec .cancelJob s = .next (runCancelJob s.port.param (answeredWrite s)) :=
  exec_command (i := .cancelJob) (code := 0x11#8) rfl take

theorem exec_takeCompletion (take : TakesCommand s) :
    exec .takeCompletion s = .next (runTakeCompletion (answeredWrite s)) :=
  exec_command (i := .takeCompletion) (code := 0x12#8) rfl take

/-! ### The active job (R143) -/

theorem active_eq_some_iff : e.active = some j ↔ e.state = .acquiring j ∨ e.state = .running j := by
  unfold Engine.active
  split <;> simp [*]

theorem activeWith_eq_true_iff :
    e.activeWith tag = true ↔ ∃ j, (e.state = .acquiring j ∨ e.state = .running j) ∧ j.job.tag = tag := by
  simp only [← active_eq_some_iff]
  unfold Engine.activeWith
  split <;> simp [*]

/-- Changing the active job changes nothing but the engine's state. -/
theorem mapActive_frame (e : Engine) (f : ActiveJob → ActiveJob) : ∃ st, e.mapActive f = { e with state := st } := by
  unfold Engine.mapActive
  split <;> exact ⟨_, rfl⟩

theorem mapActive_buffers (e : Engine) (f : ActiveJob → ActiveJob) : (e.mapActive f).buffers = e.buffers := by
  obtain ⟨st, changed⟩ := mapActive_frame e f
  rw [changed]

theorem mapActive_state_acquiring (h : e.state = .acquiring j) (f : ActiveJob → ActiveJob) :
    (e.mapActive f).state = .acquiring (f j) := by
  simp only [Engine.mapActive, h]

theorem mapActive_state_running (h : e.state = .running j) (f : ActiveJob → ActiveJob) :
    (e.mapActive f).state = .running (f j) := by
  simp only [Engine.mapActive, h]

/-! ### The cancel of the active job (R156, step 2, R157) -/

theorem cancelActive_of_not_carried (h : e.activeWith tag = false) : e.cancelActive tag = e := by
  simp [Engine.cancelActive, h]

theorem cancelActive_of_carried (h : e.activeWith tag = true) :
    e.cancelActive tag = (e.mapActive fun j => { j with cancel := true }).withdrawRequest := by
  simp [Engine.cancelActive, h]

/-- The cancel of the active job leaves the two queues and the destination line. -/
theorem cancelActive_frame (e : Engine) (tag : Byte) : e.cancelActive tag =
    { e with state := (e.cancelActive tag).state, buffers := (e.cancelActive tag).buffers } := by
  unfold Engine.cancelActive
  split
  · obtain ⟨st, changed⟩ := mapActive_frame e fun j => { j with cancel := true }
    rw [changed]
    rfl
  · rfl

/-! ### The engine after a CANCEL_JOB that passed both checks (R156, steps 1 and 2) -/

/-- The queued jobs removed, and then the active job cancelled. -/
def cancelledEngine (e : Engine) (tag : Byte) : Engine := (e.removeQueued tag).cancelActive tag

theorem cancelledEngine_frame (e : Engine) (tag : Byte) : cancelledEngine e tag =
    { e with
      state := (cancelledEngine e tag).state
      buffers := (cancelledEngine e tag).buffers
      jobs := e.jobs.filter fun j => j.tag ≠ tag
      completions := e.completions ++ (e.queuedWith tag).map Job.cancelledRecord } :=
  cancelActive_frame (e.removeQueued tag) tag

theorem cancelledEngine_jobs (e : Engine) (tag : Byte) :
    (cancelledEngine e tag).jobs = e.jobs.filter fun j => j.tag ≠ tag := by
  rw [cancelledEngine_frame]

theorem cancelledEngine_completions (e : Engine) (tag : Byte) :
    (cancelledEngine e tag).completions = e.completions ++ (e.queuedWith tag).map Job.cancelledRecord := by
  rw [cancelledEngine_frame]

theorem cancelledEngine_dest (e : Engine) (tag : Byte) : (cancelledEngine e tag).dest = e.dest := by
  rw [cancelledEngine_frame]

/-- An active job of another tag goes on as it was, its source buffers too. -/
theorem cancelledEngine_of_not_carried (h : e.activeWith tag = false) :
    (cancelledEngine e tag).state = e.state ∧ (cancelledEngine e tag).buffers = e.buffers := by
  have kept : cancelledEngine e tag = e.removeQueued tag := cancelActive_of_not_carried (e := e.removeQueued tag) h
  rw [kept]
  exact ⟨rfl, rfl⟩

theorem cancelledEngine_of_carried (h : e.activeWith tag = true) : cancelledEngine e tag =
    ((e.removeQueued tag).mapActive fun j => { j with cancel := true }).withdrawRequest :=
  cancelActive_of_carried (e := e.removeQueued tag) h

/-- The flag of a job in ACQUIRING is set, and the job stays there. -/
theorem cancelledEngine_state_acquiring (carried : e.activeWith tag = true) (h : e.state = .acquiring j) :
    (cancelledEngine e tag).state = .acquiring { j with cancel := true } := by
  rw [cancelledEngine_of_carried carried]
  exact mapActive_state_acquiring (e := e.removeQueued tag) h _

/-- The flag of a job in RUNNING is set, and the job stays there. -/
theorem cancelledEngine_state_running (carried : e.activeWith tag = true) (h : e.state = .running j) :
    (cancelledEngine e tag).state = .running { j with cancel := true } := by
  rw [cancelledEngine_of_carried carried]
  exact mapActive_state_running (e := e.removeQueued tag) h _

/-- A presented request of the cancelled job is withdrawn. -/
theorem cancelledEngine_buffers (carried : e.activeWith tag = true) (k : Fin 2) :
    (cancelledEngine e tag).buffers[k] = e.buffers[k].map SourceBuffer.withdraw := by
  simp [cancelledEngine_of_carried carried, Engine.withdrawRequest, mapActive_buffers, Engine.removeQueued]

/-! ### The free places of the completion queue (R156, check 2) -/

theorem freePlaces_of_completing {r : CompletionRecord} (h : e.state = .completing r) : e.freePlaces = 0 := by
  simp only [Engine.freePlaces, h]

theorem freePlaces_of_not_completing (h : ∀ r, e.state ≠ .completing r) :
    e.freePlaces = 4 - e.completions.length := by
  unfold Engine.freePlaces
  split
  · next r completing => exact (h r completing).elim
  all_goals rfl

/-- No engine has more free places than the queue has. -/
theorem freePlaces_le (e : Engine) : e.freePlaces ≤ 4 - e.completions.length := by
  by_cases h : ∃ r, e.state = .completing r
  · obtain ⟨r, completing⟩ := h
    rw [freePlaces_of_completing completing]
    exact Nat.zero_le _
  · exact (freePlaces_of_not_completing (not_exists.mp h)).le

/-! ### RESULT0 and RESULT1 (R156, step 3) -/

theorem cancelResult_removed (r : Vector Byte 8) (removed : Nat) (flagged : Bool) :
    (cancelResult r removed flagged)[0] = BitVec.ofNat 8 removed := by
  simp [cancelResult]

theorem cancelResult_flagged (r : Vector Byte 8) (removed : Nat) (flagged : Bool) :
    (cancelResult r removed flagged)[1] = if flagged then 0x01#8 else 0x00#8 := by
  simp [cancelResult]

theorem cancelResult_rest (r : Vector Byte 8) (removed : Nat) (flagged : Bool) {k : Fin 8} (h : 2 ≤ k.val) :
    (cancelResult r removed flagged)[k] = r[k] := by
  have not0 : 0 ≠ k.val := by omega
  have not1 : 1 ≠ k.val := by omega
  simp [cancelResult, Vector.getElem_set_ne, not0, not1]

/-! ### CANCEL_JOB as a command (R156) -/

theorem runCancelJob_noSuchJob (noneQueued : s.engine.queuedWith p[0] = [])
    (notActive : s.engine.activeWith p[0] = false) :
    runCancelJob p s = completedWith s .noSuchJob := by
  simp [runCancelJob, noneQueued, notActive, complete_eq]

theorem runCancelJob_queueFull (queued : s.engine.queuedWith p[0] ≠ [])
    (noRoom : s.engine.freePlaces < (s.engine.queuedWith p[0]).length) :
    runCancelJob p s = completedWith s .queueFull := by
  simp [runCancelJob, queued, noRoom, complete_eq]

theorem runCancelJob_ok (carried : s.engine.queuedWith p[0] ≠ [] ∨ s.engine.activeWith p[0] = true)
    (room : (s.engine.queuedWith p[0]).length ≤ s.engine.freePlaces) :
    runCancelJob p s = State.finish s (completedWith
      ((s.withEngine (cancelledEngine s.engine p[0])).writeResults
        (cancelResult s.port.result (s.engine.queuedWith p[0]).length (s.engine.activeWith p[0]))) .ok) := by
  have passed : ¬ ((s.engine.queuedWith p[0]).length = 0 ∧ (!s.engine.activeWith p[0]) = true) := by
    rw [List.length_eq_zero_iff, Bool.not_eq_true', ← Bool.not_eq_true]
    tauto
  unfold runCancelJob
  rw [if_neg passed, if_neg (Nat.not_lt.mpr room)]
  rfl

/-! ### TAKE_COMPLETION as a command (R155) -/

theorem takeHead_completing {x : CompletionRecord} (h : e.state = .completing x) (rest : List CompletionRecord) :
    e.takeHead rest = { e with state := .idle, completions := rest ++ [x] } := by
  simp only [Engine.takeHead, h]

theorem takeHead_not_completing (h : ∀ x, e.state ≠ .completing x) (rest : List CompletionRecord) :
    e.takeHead rest = { e with completions := rest } := by
  unfold Engine.takeHead
  split
  · next x completing => exact (h x completing).elim
  all_goals rfl

/-- The RESULT bytes of a record: the value stands in three bytes, low byte first. -/
theorem record_bytes (r : CompletionRecord) (left : Nat) : r.bytes left =
    #v[r.tag, BitVec.ofNat 8 r.kind.code, BitVec.ofNat 8 r.outcome.code, BitVec.ofNat 8 r.value,
       BitVec.ofNat 8 (r.value / 256), BitVec.ofNat 8 (r.value / 65536), BitVec.ofNat 8 left, 0x00#8] := by
  simp only [CompletionRecord.bytes, byteOfNumber_zero, byteOfNumber_one, byteOfNumber_two]

theorem runTakeCompletion_empty (h : s.engine.completions = []) : runTakeCompletion s = completedWith s .empty := by
  simp only [runTakeCompletion, h, complete_eq]

theorem runTakeCompletion_ok {r : CompletionRecord} {rest : List CompletionRecord}
    (h : s.engine.completions = r :: rest) :
    runTakeCompletion s = State.finish s (completedWith
      ((s.withEngine (s.engine.takeHead rest)).writeResults
        (r.bytes (s.engine.takeHead rest).completions.length)) .ok) := by
  simp only [runTakeCompletion, h, complete_eq, State.mapEngine]

/-! ### The start of a job (R143) -/

@[simp] theorem start_jobs (e : Engine) (j : Job) : (e.start j).jobs = e.jobs := by
  unfold Engine.start
  split <;> rfl

@[simp] theorem start_completions (e : Engine) (j : Job) : (e.start j).completions = e.completions := by
  unfold Engine.start
  split <;> rfl

theorem jobStart_of_idle {j : Job} {more : List Job} (idle : s.engine.state = .idle)
    (queued : s.engine.jobs = j :: more) :
    jobStart s = some (s.withEngine ({ s.engine with jobs := more }.start j)) := by
  simp only [jobStart, idle, queued]

/-! ### The statements -/

/-- Settles O29, by the two checks of R156 in their order, and then by whether the active job carries the tag. -/
theorem cancelJobRemovesAndFlags : Obligations.CancelJobRemovesAndFlags := by
  unfold Obligations.CancelJobRemovesAndFlags
  intro s take tag removed active room
  have active_iff : s.engine.activeWith tag = true ↔ active := activeWith_eq_true_iff
  have notCarried (notActive : ¬ active) : s.engine.activeWith tag = false :=
    Bool.eq_false_iff.mpr (mt active_iff.mp notActive)
  rw [exec_cancelJob take]
  refine ⟨fun noneQueued notActive => ?noSuchJob, fun queued full => ?queueFull, fun carried fits notFull => ?ok⟩
  case noSuchJob =>
    rw [runCancelJob_noSuchJob (s := answeredWrite s) noneQueued (notCarried notActive)]
  case queueFull =>
    have noRoom : s.engine.freePlaces < removed.length := by
      rcases full with few | ⟨r, completing⟩
      · exact (freePlaces_le s.engine).trans_lt few
      · rw [freePlaces_of_completing completing]
        exact List.length_pos_iff.mpr queued
    rw [runCancelJob_queueFull (s := answeredWrite s) queued noRoom]
  case ok =>
    have hasRoom : removed.length ≤ s.engine.freePlaces := by
      by_cases queued : removed = []
      · simp [queued]
      · rw [freePlaces_of_not_completing (notFull queued)]
        exact fits
    rw [runCancelJob_ok (s := answeredWrite s) (carried.imp_right active_iff.mpr) hasRoom]
    refine ⟨_, rfl, rfl, cancelledEngine_jobs _ _, cancelledEngine_completions _ _, cancelledEngine_dest _ _,
      fun notActive => cancelledEngine_of_not_carried (notCarried notActive), fun carries => ?_,
      cancelResult_removed _ _ _, fun j stands tagged _ => ?_, fun notActive => ?_,
      fun _ rest => cancelResult_rest _ _ _ rest⟩
    · have flagged := active_iff.mpr carries
      exact ⟨fun _ => cancelledEngine_state_acquiring flagged, fun _ => cancelledEngine_state_running flagged,
        cancelledEngine_buffers flagged⟩
    · exact (cancelResult_flagged _ _ _).trans (if_pos (active_iff.mpr ⟨j, stands, tagged⟩))
    · exact (cancelResult_flagged _ _ _).trans (if_neg (mt active_iff.mp notActive))

/-- Settles O30, by whether the engine is COMPLETING when the head record is taken. -/
theorem takeCompletionReportsTheHeadRecord : Obligations.TakeCompletionReportsTheHeadRecord := by
  unfold Obligations.TakeCompletionReportsTheHeadRecord
  refine ⟨⟨rfl, rfl, rfl, rfl, rfl, rfl, rfl, rfl, rfl, rfl⟩, fun s take => ?_⟩
  rw [exec_takeCompletion take]
  refine ⟨fun h => ?empty, fun r rest h => ⟨fun x completing => ?admits, fun notCompleting => ?takes,
    fun u j more idle queued => ?starts⟩⟩
  case empty =>
    rw [runTakeCompletion_empty (s := answeredWrite s) h]
  case admits =>
    rw [runTakeCompletion_ok (s := answeredWrite s) h,
      takeHead_completing (e := (answeredWrite s).engine) completing, List.length_append, record_bytes]
    rfl
  case takes =>
    rw [runTakeCompletion_ok (s := answeredWrite s) h,
      takeHead_not_completing (e := (answeredWrite s).engine) notCompleting, record_bytes]
    rfl
  case starts =>
    exact ⟨_, jobStart_of_idle idle queued, start_jobs _ _, start_completions _ _⟩

end Sys2Proof.Proofs.MoveEngine

/-! PROOFS. The family of 09_commands_and_control.md: the parameter block is storage in every command state, and a
command that stays EXECUTING holds the copy taken at its write (R162). -/

namespace Sys2Proof.Proofs.Commands

open Sys2Proof Sys2Proof.Machine Sys2Proof.Safety Sys2Proof.Laws Sys2Proof.Proofs.Streams

variable {s t : State} {p : Params} {n : StreamId}

/-! ### Accesses of PARAMi (R162) -/

theorem exec_param_write (h : s.accessCanBegin = true) (i : Fin 16) (v : Byte) :
    exec (.registerWrite (.param i) (.write v)) s =
      .next { s with bus := .answered none, port := { s.port with param := s.port.param.set i.val v } } := by
  rw [exec_access (i := .registerWrite (.param i) (.write v)) rfl]
  simp only [busAccess, busWrite, h, if_true, registerWrite]
  rfl

theorem exec_param_read (h : s.accessCanBegin = true) (i : Fin 16) :
    exec (.registerWrite (.param i) .read) s = .next { s with bus := .answered (some s.port.param[i]) } := by
  rw [exec_access (i := .registerWrite (.param i) .read) rfl]
  simp only [busAccess, busRead, h, if_true, State.registerByte]
  rfl

/-! ### What the shared operations keep of the Command Port -/

theorem acceptPost_port {line : Nat} {mask : ByteMask} {k : SlotId} (h : s.acceptPost line mask k = some t) :
    t.port = s.port := by
  rw [acceptPost_keeps h]

@[simp] theorem postAssembly_port (s : State) (n : StreamId) (w : WriteStream) (a : Assembly) (x y : WriteState) :
    (s.postAssembly n w a x y).port = s.port := by
  rcases postAssembly_cases s n w a x y with ⟨u, taken, posted⟩ | ⟨_, held⟩
  · rw [posted, setStream_port, acceptPost_port taken]
  · rw [held, setStream_port]

@[simp] theorem placeByte_port (s : State) (n : StreamId) (w : WriteStream) (a : Assembly) (v : Byte) :
    (s.placeByte n w a v).port = s.port := by
  unfold State.placeByte
  dsimp only
  split
  · split <;> simp
  · split <;> simp

@[simp] theorem grantAssembly_port (s : State) (n : StreamId) (w : WriteStream) (k : SlotId) :
    (s.grantAssembly n w k).port = s.port := by
  unfold State.grantAssembly
  dsimp only
  split <;> simp

@[simp] theorem grantRead_port (s : State) (n : StreamId) (k : SlotId) : (s.grantRead n k).port = s.port := by
  unfold State.grantRead
  split
  · split <;> rfl
  all_goals rfl

@[simp] theorem grantWrite_port (s : State) (n : StreamId) (k : SlotId) : (s.grantWrite n k).port = s.port := by
  unfold State.grantWrite
  split
  · split <;> simp
  all_goals rfl

@[simp] theorem grantDest_port (s : State) (k : SlotId) : (s.grantDest k).port = s.port := by
  unfold State.grantDest
  split
  · split <;> rfl
  · rfl

@[simp] theorem takeSlot_port (s : State) (c : Fin 9) (x : Claim) (k : SlotId) : (s.takeSlot c x k).port = s.port := by
  unfold State.takeSlot
  split
  · split <;> simp
  · split <;> simp
  · rfl
  · simp

@[simp] theorem endChunk_port (s : State) (size : Nat) : (s.endChunk size).port = s.port := by
  unfold State.endChunk
  split <;> rfl

@[simp] theorem posterAccepted_port (s : State) (o : Fin 9) : (s.posterAccepted o).port = s.port := by
  unfold State.posterAccepted
  split
  · split <;> rfl
  · split <;> simp

theorem takeHeld_port {o : Fin 9} (h : s.takeHeld o = some t) : t.port = s.port := by
  unfold State.takeHeld at h
  split at h
  · split at h
    · next u taken =>
      cases h
      rw [posterAccepted_port, withPost_port, acceptPost_port taken]
    · cases h
  · cases h

@[simp] theorem buildAndPost_port (s : State) (j : ActiveJob) (c : Chunk) (k : SlotId) :
    (s.buildAndPost j c k).port = s.port := by
  unfold State.buildAndPost
  dsimp only
  split
  · next u taken => rw [endChunk_port, acceptPost_port taken, fillSlot_port]
  · rfl

@[simp] theorem examine_port (s : State) (j : ActiveJob) (a : Nat) (pattern mask : Byte) (c : StopCondition)
    (k : SlotId) : (s.examine j a pattern mask c k).port = s.port := by
  unfold State.examine
  dsimp only
  split <;> rfl

@[simp] theorem compareLines_port (s : State) (j : ActiveJob) (a b : Nat) (x y : SlotId) :
    (s.compareLines j a b x y).port = s.port := by
  unfold State.compareLines
  dsimp only
  split <;> rfl

@[simp] theorem endJob_port (s : State) (j : ActiveJob) : (s.endJob j).port = s.port :=
  foldl_keeps State.port State.release (fun _ _ => rfl) s.engine.slots s.withdrawEngineClaim

@[simp] theorem entryInFlight_port (s : State) (n : StreamId) (k : SlotId) : (s.entryInFlight n k).port = s.port := by
  unfold State.entryInFlight
  split <;> rfl

@[simp] theorem tellRequester_port (s : State) (o : Fin 10) (q : Request) : (s.tellRequester o q).port = s.port := by
  unfold State.tellRequester
  split
  · simp
  · split <;> rfl

@[simp] theorem grantRequest_port (s : State) (o : Fin 10) (q : Request) : (s.grantRequest o q).port = s.port := by
  rw [State.grantRequest, tellRequester_port, setOut_keeps]
  rfl

/-! ### The consequences of an event: the Command Port is left, or its command ends -/

theorem syncClaims_port (h : syncClaims s = some t) : t.port = s.port := by
  unfold syncClaims at h
  split at h
  all_goals cases h
  rfl

theorem slotGrant_port (h : slotGrant s = some t) : t.port = s.port := by
  unfold slotGrant at h
  split at h
  all_goals cases h
  exact takeSlot_port _ _ _ _

theorem heldPostAcceptance_port (h : heldPostAcceptance s = some t) : t.port = s.port := by
  obtain ⟨_, _, taken⟩ := List.exists_of_findSome?_eq_some h
  exact takeHeld_port taken

theorem jobEnd_port (h : jobEnd s = some t) : t.port = s.port := by
  unfold jobEnd at h
  split at h
  all_goals cases h
  exact endJob_port s _

theorem jobStart_port (h : jobStart s = some t) : t.port = s.port := by
  unfold jobStart at h
  split at h
  all_goals cases h
  rfl

theorem destinationLineBuild_port (h : destinationLineBuild s = some t) : t.port = s.port := by
  unfold destinationLineBuild at h
  repeat' split at h
  all_goals cases h
  exact buildAndPost_port s _ _ _

theorem engineRequest_port (h : engineRequest s = some t) : t.port = s.port := by
  unfold engineRequest at h
  repeat' split at h
  all_goals cases h
  rfl

theorem examineInTurn_port (h : examineInTurn s = some t) : t.port = s.port := by
  have examined := examineInTurn_scan h
  unfold scanExamination at examined
  repeat' split at examined
  all_goals cases examined
  exact examine_port s _ _ _ _ _ _

theorem compareChunk_port (h : compareChunk s = some t) : t.port = s.port := by
  unfold compareChunk at h
  repeat' split at h
  all_goals cases h
  exact compareLines_port s _ _ _ _ _

theorem renewalStart_port (h : renewalStart s = some t) : t.port = s.port := by
  unfold renewalStart at h
  split at h
  all_goals cases h
  rfl

theorem requestGrant_port (h : requestGrant s = some t) : t.port = s.port := by
  unfold requestGrant at h
  split at h
  all_goals cases h
  exact grantRequest_port s _ _

theorem resetCallSatisfied_port (h : resetCallSatisfied s = some t) : t.port = s.port := by
  unfold resetCallSatisfied at h
  split at h
  all_goals cases h
  rfl

/-- The command that waited for the drain has completed (R74). -/
theorem drainComplete_idle (h : drainComplete s = some t) : t.port.state = .idle := by
  unfold drainComplete at h
  repeat' split at h
  all_goals cases h
  rfl

/-- RESETTING has ended (R171). -/
theorem resettingEnd_idle (h : resettingEnd s = some t) : t.port.state = .idle := by
  unfold resettingEnd at h
  split at h
  all_goals cases h
  rfl

/-- No consequence puts a command into EXECUTING: one ends the waiting command, one ends RESETTING, and the others
leave the Command Port as it is. -/
theorem settleActions_port {a : State → Option State} (ha : a ∈ settleActions) (h : a s = some t) :
    t.port = s.port ∨ t.port.state = .idle := by
  simp only [settleActions, List.mem_cons, List.not_mem_nil, or_false] at ha
  rcases ha with rfl | rfl | rfl | rfl | rfl | rfl | rfl | rfl | rfl | rfl | rfl | rfl | rfl | rfl
  · exact .inl (syncClaims_port h)
  · exact .inl (slotGrant_port h)
  · exact .inl (heldPostAcceptance_port h)
  · exact .inr (drainComplete_idle h)
  · exact .inl (jobEnd_port h)
  · exact .inl (jobStart_port h)
  · exact .inl (destinationLineBuild_port h)
  · exact .inl (engineRequest_port h)
  · exact .inl (examineInTurn_port h)
  · exact .inl (compareChunk_port h)
  · exact .inl (renewalStart_port h)
  · exact .inl (requestGrant_port h)
  · exact .inr (resettingEnd_idle h)
  · exact .inl (resetCallSatisfied_port h)

/-! ### The copy of the parameter block (R162) -/

/-- A command in EXECUTING, if there is one, holds p as its copy of the parameter block. -/
def HoldsCopy (p : Params) (s : State) : Prop := ∀ c, s.port.state = .executing c → c.params = p

theorem holdsCopy_of_idle (idle : s.port.state = .idle) : HoldsCopy p s := by
  intro c executing
  rw [idle] at executing
  cases executing

theorem holdsCopy_of_port_eq (same : t.port = s.port) (h : HoldsCopy p s) : HoldsCopy p t := by
  unfold HoldsCopy
  rwa [same]

/-- Whichever branch is taken, the copy is held. -/
theorem holdsCopy_ite {c : Prop} [Decidable c] (yes : HoldsCopy p s) (no : HoldsCopy p t) :
    HoldsCopy p (if c then s else t) := iteInduction (fun _ => yes) (fun _ => no)

theorem complete_holdsCopy (s : State) (r : ResultCode) : HoldsCopy p (s.complete r) := holdsCopy_of_idle rfl

theorem stayExecuting_holdsCopy (s : State) (c : LongCommand) : HoldsCopy p (s.stayExecuting c p) := by
  intro c' executing
  cases executing
  rfl

/-- The end of an event keeps the copy: of its consequences, and of the order it puts the bank steps in. -/
theorem finish_holdsCopy (before : State) (h : HoldsCopy p s) : HoldsCopy p (State.finish before s) := by
  refine finish_induct (HoldsCopy p) (fun a ha u v acts held => ?_) (fun _ _ _ _ _ held => held) before h
  rcases settleActions_port ha acts with same | idle
  · exact holdsCopy_of_port_eq same held
  · exact holdsCopy_of_idle idle

theorem finish_complete_holdsCopy (before s : State) (r : ResultCode) :
    HoldsCopy p (State.finish before (s.complete r)) :=
  finish_holdsCopy before (complete_holdsCopy s r)

/-! ### The commands (R163) -/

theorem openContext_holdsCopy (s : State) (n : StreamId) (w : Window) (c : Stream) :
    HoldsCopy p (s.openContext n w c) := by
  unfold State.openContext
  exact holdsCopy_ite (complete_holdsCopy _ _) <|
    holdsCopy_ite (finish_complete_holdsCopy _ _ _) (complete_holdsCopy _ _)

theorem openStream_holdsCopy (s : State) (made : Option (Window × Stream)) : HoldsCopy p (s.openStream p made) := by
  unfold State.openStream
  split
  · exact complete_holdsCopy _ _
  · split
    · exact openContext_holdsCopy _ _ _ _
    all_goals exact complete_holdsCopy _ _

/-- FLUSH, SEEK and CLOSE of a write stream complete, or stay EXECUTING in a drain (R70 to R74). -/
theorem writeStreamCommand_holdsCopy (s : State) (n : StreamId) (w : WriteStream) (c : LongCommand) :
    HoldsCopy p (s.writeStreamCommand n w c p) := by
  have drains (u : State) (x : WriteStream) : HoldsCopy p (u.drain n x c p) := stayExecuting_holdsCopy _ c
  have ends (u : State) : HoldsCopy p (u.finishDrain n w c p) := complete_holdsCopy _ .ok
  unfold State.writeStreamCommand
  split
  · split
    · exact ends _
    · refine holdsCopy_ite (ends _) ?_
      split
      · exact ends _
      · exact drains _ _
  · exact complete_holdsCopy _ _
  · exact drains _ _
  · exact drains _ _
  · split
    · exact complete_holdsCopy _ _
    all_goals
      split
      · exact ends _
      · exact drains _ _

theorem runSeek_holdsCopy (s : State) : HoldsCopy p (runSeek p s) := by
  unfold runSeek
  split
  · exact complete_holdsCopy _ _
  · split
    · exact complete_holdsCopy _ _
    · exact holdsCopy_ite (finish_complete_holdsCopy _ _ _) (complete_holdsCopy _ _)
    · exact holdsCopy_ite (finish_holdsCopy _ (writeStreamCommand_holdsCopy _ _ _ _)) (complete_holdsCopy _ _)

theorem runFlush_holdsCopy (s : State) : HoldsCopy p (runFlush p s) := by
  unfold runFlush
  split
  · exact complete_holdsCopy _ _
  · split
    · exact complete_holdsCopy _ _
    · exact complete_holdsCopy _ _
    · exact finish_holdsCopy _ (writeStreamCommand_holdsCopy _ _ _ _)

theorem runClose_holdsCopy (s : State) : HoldsCopy p (runClose p s) := by
  unfold runClose
  split
  · exact complete_holdsCopy _ _
  · split
    · exact complete_holdsCopy _ _
    · exact finish_complete_holdsCopy _ _ _
    · exact finish_holdsCopy _ (writeStreamCommand_holdsCopy _ _ _ _)

theorem runQueryStream_holdsCopy (s : State) : HoldsCopy p (runQueryStream p s) := by
  unfold runQueryStream
  split
  all_goals exact complete_holdsCopy _ _

theorem runSubmitJob_holdsCopy (s : State) : HoldsCopy p (runSubmitJob p s) := by
  unfold runSubmitJob
  split
  · exact complete_holdsCopy _ _
  · exact holdsCopy_ite (complete_holdsCopy _ _) <|
      holdsCopy_ite (complete_holdsCopy _ _) <|
      holdsCopy_ite (complete_holdsCopy _ _) (finish_complete_holdsCopy _ _ _)

theorem runCancelJob_holdsCopy (s : State) : HoldsCopy p (runCancelJob p s) := by
  unfold runCancelJob
  exact holdsCopy_ite (complete_holdsCopy _ _) <|
    holdsCopy_ite (complete_holdsCopy _ _) (finish_complete_holdsCopy _ _ _)

theorem runTakeCompletion_holdsCopy (s : State) : HoldsCopy p (runTakeCompletion s) := by
  unfold runTakeCompletion
  split
  · exact complete_holdsCopy _ _
  · exact finish_complete_holdsCopy _ _ _

theorem runSetTiming_holdsCopy (s : State) : HoldsCopy p (runSetTiming p s) := by
  unfold runSetTiming
  split
  · exact complete_holdsCopy _ _
  · split
    all_goals exact complete_holdsCopy _ _

/-- MEM_START stays EXECUTING unless it is refused (R127). -/
theorem runMemStart_holdsCopy (s : State) : HoldsCopy p (runMemStart p s) := by
  unfold runMemStart
  exact holdsCopy_ite (complete_holdsCopy _ _) (stayExecuting_holdsCopy _ _)

theorem runSetClock_holdsCopy (s : State) : HoldsCopy p (runSetClock p s) := by
  unfold runSetClock
  split
  all_goals exact complete_holdsCopy _ _

/-- A command run on p completes, or stays EXECUTING with p as its copy, whatever its code. -/
theorem runCommand_holdsCopy (code : Byte) (s : State) : HoldsCopy p (runCommand code p s) := by
  unfold runCommand
  exact holdsCopy_ite (openStream_holdsCopy s p.readContext) <|
    holdsCopy_ite (openStream_holdsCopy s p.writeContext) <|
    holdsCopy_ite (runSeek_holdsCopy s) <|
    holdsCopy_ite (runFlush_holdsCopy s) <|
    holdsCopy_ite (runClose_holdsCopy s) <|
    holdsCopy_ite (runQueryStream_holdsCopy s) <|
    holdsCopy_ite (complete_holdsCopy s.tagOrReport .ok) <|
    holdsCopy_ite (runSubmitJob_holdsCopy s) <|
    holdsCopy_ite (runCancelJob_holdsCopy s) <|
    holdsCopy_ite (runTakeCompletion_holdsCopy s) <|
    holdsCopy_ite (runSetTiming_holdsCopy s) <|
    holdsCopy_ite (runMemStart_holdsCopy s) <|
    holdsCopy_ite (runSetClock_holdsCopy s) (complete_holdsCopy s .badCommand)

/-! ### The statements -/

/-- Settles O10: the accesses of PARAMi one by one, and the copy through the command's own branches and the
consequences of its event. -/
theorem parameterBlockIsStorageCapturedByCommands : Obligations.ParameterBlockIsStorageCapturedByCommands := by
  unfold Obligations.ParameterBlockIsStorageCapturedByCommands
  refine ⟨fun i v s begins => ⟨exec_param_write begins i v, exec_param_read begins i⟩,
    fun i code s t c access take ran executing => ?_⟩
  rw [exec_command access take] at ran
  cases ran
  exact runCommand_holdsCopy code (answeredWrite s) c executing

end Sys2Proof.Proofs.Commands

/-! PROOFS. The family of 10_events_and_the_interrupt_line.md: the writes of the flag and enable positions (R174, R177,
R178), and /INT and the two summaries as functions of their causes (R175, R176, R179). -/

namespace Sys2Proof.Proofs.Events

open Sys2Proof Sys2Proof.Machine Sys2Proof.Safety Sys2Proof.Laws

variable {s : State}

/-! ### Writes of register positions (R174, R177, R178) -/

/-- A write of a position that is no data port, when an access can begin, is that position's register write. -/
theorem exec_write {i : Instr} {p : Position} {v : Byte} (h : busAccessOf i = some (p, .write v))
    (begins : s.accessCanBegin = true) (noData : ∀ n, p ≠ .data n) :
    exec i s = .next (registerWrite p v (s.withBus (.answered none))) := by
  rw [exec_access h]
  cases p with
  | data n => exact (noData n rfl).elim
  | _ => simp [busAccess, busWrite, begins]

theorem exec_eventPendingWrite (begins : s.accessCanBegin = true) (v : Byte) :
    exec (.eventPendingWrite v) s =
      .next ((s.withBus (.answered none)).mapEvents fun e => e.writeOneToClear v) :=
  exec_write (p := .eventPending) rfl begins nofun

theorem exec_streamEventWrite (begins : s.accessCanBegin = true) (n : StreamId) (v : Byte) :
    exec (.streamEventWrite n v) s =
      .next ((s.withBus (.answered none)).mapFlags n fun f => f.writeOneToClear v) :=
  exec_write (p := .streamEvent n) rfl begins nofun

theorem exec_eventEnableWrite (begins : s.accessCanBegin = true) (v : Byte) :
    exec (.eventEnableWrite v) s =
      .next ((s.withBus (.answered none)).mapEvents fun e => { e with enable := v.setWidth 7 }) :=
  exec_write (p := .eventEnable) rfl begins nofun

theorem exec_streamEventEnableWrite (begins : s.accessCanBegin = true) (v : Byte) :
    exec (.streamEventEnableWrite v) s =
      .next ((s.withBus (.answered none)).mapEvents fun e => { e with streamEnable := v.setWidth 4 }) :=
  exec_write (p := .streamEventEnable) rfl begins nofun

/-- An enable position that keeps the low k bits shows those of the byte written, and 0 above them (R178). -/
theorem setWidth_keeps_low_bits {k : Nat} (hk : k ≤ 8) (v : Byte) :
    (v.setWidth k).setWidth 8 = v &&& BitVec.ofNat 8 (2 ^ k - 1) := by
  have fits : 2 ^ k ≤ 2 ^ 8 := Nat.pow_le_pow_right (by decide) hk
  have positive : 0 < 2 ^ k := Nat.two_pow_pos k
  refine BitVec.eq_of_toNat_eq ?_
  rw [BitVec.toNat_and, BitVec.toNat_ofNat, Nat.mod_eq_of_lt (by omega : 2 ^ k - 1 < 2 ^ 8),
    Nat.and_two_pow_sub_one_eq_mod, BitVec.toNat_setWidth, BitVec.toNat_setWidth]
  exact Nat.mod_eq_of_lt ((Nat.mod_lt _ positive).trans_le fits)

/-! ### Bits that are 1 in two words -/

/-- Two words have a 1 in common exactly when their conjunction is not zero. -/
theorem and_ne_zero_iff {w : Nat} (x y : BitVec w) :
    x &&& y ≠ 0#w ↔ ∃ i, i < w ∧ x.getLsbD i = true ∧ y.getLsbD i = true := by
  constructor
  · intro nonzero
    by_contra apart
    refine nonzero (BitVec.eq_of_getLsbD_eq fun i hi => ?_)
    rw [BitVec.getLsbD_and, BitVec.getLsbD_zero, Bool.and_eq_false_iff]
    by_contra! both
    exact apart ⟨i, hi, by simpa using both⟩
  · rintro ⟨i, hi, hx, hy⟩ zero
    have bit : (x &&& y).getLsbD i = true := by rw [BitVec.getLsbD_and, hx, hy, Bool.and_self]
    rw [zero, BitVec.getLsbD_zero] at bit
    cases bit

/-! ### The summaries (R175, R176) -/

theorem byteOfBits_getLsbD_two (b0 b1 b2 b3 b4 b5 b6 b7 : Bool) :
    (byteOfBits b0 b1 b2 b3 b4 b5 b6 b7).getLsbD 2 = b2 := by
  simp only [byteOfBits, BitVec.getLsbD_append, BitVec.getLsbD_ofBool]
  simp

theorem byteOfBits_getLsbD_three (b0 b1 b2 b3 b4 b5 b6 b7 : Bool) :
    (byteOfBits b0 b1 b2 b3 b4 b5 b6 b7).getLsbD 3 = b3 := by
  simp only [byteOfBits, BitVec.getLsbD_append, BitVec.getLsbD_ofBool]
  simp

@[simp] theorem eventPending_stream (s : State) : s.eventPending.getLsbD 2 = s.streamSummary :=
  byteOfBits_getLsbD_two ..

@[simp] theorem eventPending_job (s : State) : s.eventPending.getLsbD 3 = s.jobSummary :=
  byteOfBits_getLsbD_three ..

theorem byteOfBits_false : byteOfBits false false false false false false false false = 0x00#8 := rfl

@[simp] theorem streamFlags_none_byte : StreamFlags.none.byte = 0x00#8 := rfl

/-- One stream's part in STREAM: a flag set whose enable is set (R175). -/
theorem streamCause_iff (f : StreamFlags) (enable : BitVec 4) :
    f.byte.setWidth 4 &&& enable ≠ 0#4 ↔
      ∃ i, i < 4 ∧ f.byte.getLsbD i = true ∧ (enable.setWidth 8).getLsbD i = true := by
  rw [and_ne_zero_iff]
  refine exists_congr fun i => and_congr_right fun hi => ?_
  simp [hi, show i < 8 by omega]

theorem streamSummary_iff (s : State) : s.streamSummary = true ↔ ∃ (n : StreamId) (i : Nat), i < 4 ∧
    s.streamFlags[n].byte.getLsbD i = true ∧ s.streamEventEnableByte.getLsbD i = true := by
  have ofStream : s.streamSummary = true ↔
      ∃ n : StreamId, s.streamFlags[n].byte.setWidth 4 &&& s.events.streamEnable ≠ 0#4 := by
    simp [State.streamSummary, Vector.any_eq_true, Fin.exists_iff]
  rw [ofStream]
  exact exists_congr fun n => streamCause_iff _ _

/-- While /RESET is low JOB is 0, like every flag (R179). -/
theorem jobSummary_of_resetLow (low : s.resetLow = true) : s.jobSummary = false := by
  simp [State.jobSummary, low]

theorem jobSummary_iff (high : s.resetLow = false) : s.jobSummary = true ↔ s.engine.completions ≠ [] := by
  simp [State.jobSummary, high]

/-! ### /INT (R179) -/

theorem intAsserted_iff (s : State) : s.intAsserted = true ↔ s.resetLow = false ∧
    ∃ i, i < 8 ∧ s.eventPending.getLsbD i = true ∧ s.eventEnableByte.getLsbD i = true := by
  rw [← and_ne_zero_iff]
  simp [State.intAsserted]

theorem intAsserted_of_resetLow (low : s.resetLow = true) : s.intAsserted = false := by
  simp [State.intAsserted, low]

theorem intAsserted_of_no_enable (disabled : s.eventEnableByte = 0x00#8) : s.intAsserted = false := by
  simp [State.intAsserted, disabled]

/-! ### /RESET (R179, R187) -/

theorem exec_pinReset (high : s.resetLow = false) : exec .pinReset s = .next s.fall := by
  simp [exec, execPinReset, pinReset, high]

theorem exec_pinResetRelease (low : s.resetLow = true) : exec .pinResetRelease s = .next s.rise := by
  simp [exec, execPinResetRelease, pinResetRelease, low]

@[simp] theorem fall_streamFlags (s : State) (n : StreamId) : s.fall.streamFlags[n] = StreamFlags.none := by
  simp [State.fall]

theorem fall_streamSummary (s : State) : s.fall.streamSummary = false := by
  rw [Bool.eq_false_iff, Ne, streamSummary_iff]
  rintro ⟨n, i, _, pending, _⟩
  rw [fall_streamFlags, streamFlags_none_byte, BitVec.getLsbD_zero] at pending
  cases pending

theorem fall_eventPending (s : State) : s.fall.eventPending = 0x00#8 := by
  rw [State.eventPending, fall_streamSummary, jobSummary_of_resetLow (s := s.fall) rfl]
  exact byteOfBits_false

/-! ### The statements -/

/-- Settles O11: each row is the register write of its position, and an enable position shows the bits it keeps. -/
theorem eventAndEnableWrites : Obligations.EventAndEnableWrites := by
  unfold Obligations.EventAndEnableWrites
  refine ⟨fun v s begins => exec_eventPendingWrite begins v, fun v s begins =>
    ⟨fun n => exec_streamEventWrite begins n v, ?enable, ?streamEnable⟩⟩
  case enable =>
    exact ⟨_, exec_eventEnableWrite begins v, setWidth_keeps_low_bits (k := 7) (by decide) v, rfl⟩
  case streamEnable =>
    exact ⟨_, exec_streamEventEnableWrite begins v, setWidth_keeps_low_bits (k := 4) (by decide) v, rfl⟩

/-- Settles O12: /INT bit by bit, its levels at the two edges of /RESET, and the summaries from their causes, none of
which a write of EVENT_PENDING touches. -/
theorem interruptLineAndSummariesFollowTheirCauses : Obligations.InterruptLineAndSummariesFollowTheirCauses := by
  unfold Obligations.InterruptLineAndSummariesFollowTheirCauses
  refine ⟨⟨intAsserted_iff, fun s high => ?fall, fun s low => ?rise, fun s => intAsserted_of_no_enable⟩,
    fun s => ⟨?stream, fun high => ?job, fun v begins => ?write⟩⟩
  case fall =>
    exact ⟨_, exec_pinReset high, fall_eventPending s, rfl, rfl, fun n => congrArg _ (fall_streamFlags s n),
      intAsserted_of_resetLow rfl⟩
  case rise => exact ⟨_, exec_pinResetRelease low, rfl, intAsserted_of_no_enable rfl⟩
  case stream =>
    rw [eventPending_stream]
    exact streamSummary_iff s
  case job =>
    rw [eventPending_job]
    exact jobSummary_iff high
  case write =>
    refine ⟨_, exec_eventPendingWrite begins v, ?_, ?_⟩
    · rw [eventPending_stream, eventPending_stream]
      rfl
    · rw [eventPending_job, eventPending_job]
      rfl

end Sys2Proof.Proofs.Events

/-! PROOFS. The family of 11_host_bus_clock_and_register_window.md: the accesses that suit no position or no direction
of one, with the unused bits of every layout (R183, R188), and SET_CLOCK with the microsecond boundary (R184 to R186). -/

namespace Sys2Proof.Proofs.HostBus

open Sys2Proof Sys2Proof.Machine Sys2Proof.Safety Sys2Proof.Laws Sys2Proof.Proofs.Streams Sys2Proof.Proofs.Events

variable {s t : State} {p : Params}

/-! ### Accesses of unmapped positions and reads of registers (R181, R183) -/

theorem exec_unmapped_read (begins : s.accessCanBegin = true) (k : Fin 6) :
    exec (.unmappedAccess k .read) s = .next (s.misuse (some 0x00#8)) := by
  simp [exec_access (i := .unmappedAccess k .read) rfl, busAccess, busRead, begins]

theorem exec_unmapped_write (begins : s.accessCanBegin = true) (k : Fin 6) (v : Byte) :
    exec (.unmappedAccess k (.write v)) s = .next (s.misuse none) :=
  exec_write (p := .unmapped k) rfl begins nofun

/-- A read of a register position answers the byte that the position shows (R188). -/
theorem exec_plainRead {q : Position} (plain : plainRead q = true) (begins : s.accessCanBegin = true) :
    exec (.registerWrite q .read) s = .next (s.withBus (.answered (some (s.registerByte q)))) := by
  rw [exec_access (i := .registerWrite q .read) rfl]
  cases q with
  | data n => cases plain
  | unmapped k => cases plain
  | _ => simp [busAccess, busRead, begins]

/-- A read-only position has no effect of its own when it is written (R183). -/
theorem exec_readOnly_write {q : Position} (begins : s.accessCanBegin = true) (v : Byte)
    (readOnly : q = .cmdStatus ∨ (∃ i, q = .result i) ∨ (∃ n, q = .streamState n) ∨ q = .memoryStatus ∨
      q = .poolFree ∨ q = .postCount ∨ q = .jobStatus) :
    exec (.registerWrite q (.write v)) s = .next (answeredWrite s) := by
  have ignored : (∀ n, q ≠ .data n) ∧ registerWrite q v (answeredWrite s) = answeredWrite s := by
    rcases readOnly with rfl | ⟨i, rfl⟩ | ⟨n, rfl⟩ | rfl | rfl | rfl | rfl <;> exact ⟨nofun, rfl⟩
  obtain ⟨noData, same⟩ := ignored
  exact (exec_write (p := q) rfl begins noData).trans (congrArg _ same)

/-- The end of RESETTING is the state that R171 gives it. -/
theorem eq_endResetting_of_resettingEnd (ends : resettingEnd s = some t) : t = s.endResetting := by
  unfold resettingEnd at ends
  split at ends
  · exact (Option.some.inj ends).symm
  · cases ends

@[simp] theorem endResetting_portMisuse (s : State) : s.endResetting.events.portMisuse = false := rfl

/-! ### The unused bits of the layouts read 0 (R188) -/

/-- A number leaves bit k of its byte 0 when the quotient by 2 ^ k is even. -/
theorem ofNat_and_bit_eq_zero {m k : Nat} (even : m / 2 ^ k % 2 = 0) :
    BitVec.ofNat 8 m &&& BitVec.twoPow 8 k = 0#8 := by
  rw [BitVec.and_twoPow, if_neg]
  simp [BitVec.getLsbD_ofNat, Nat.testBit_eq_decide_div_mod_eq, even]

theorem byteOfBits_bit7_unused (b0 b1 b2 b3 b4 b5 b6 : Bool) :
    byteOfBits b0 b1 b2 b3 b4 b5 b6 false &&& 0x80#8 = 0#8 := by
  revert b0 b1 b2 b3 b4 b5 b6
  decide

theorem streamFlags_byte_unused (f : StreamFlags) : f.byte &&& 0xF0#8 = 0#8 := by
  obtain ⟨b0, b1, b2, b3⟩ := f
  revert b0 b1 b2 b3
  decide

/-- A word of k bits shown in a byte leaves the bits above it 0. -/
theorem setWidth_and_high_eq_zero {k : Nat} (x : BitVec k) :
    x.setWidth 8 &&& (BitVec.allOnes 8 <<< k) = 0#8 := by
  refine BitVec.eq_of_getLsbD_eq fun i _ => ?_
  rcases Nat.lt_or_ge i k with inside | above
  · simp [inside]
  · simp [BitVec.getLsbD_of_ge x i above]

theorem resultCode_unused (r : ResultCode) : BitVec.ofNat 8 r.code &&& 0x70#8 = 0#8 := by
  cases r <;> rfl

/-- Bit 7 of CMD_STATUS is BUSY, and the result code lies in bits 3 to 0 (R165). -/
theorem statusByte_unused (q : Port) : q.statusByte &&& 0x70#8 = 0#8 := by
  unfold Port.statusByte
  split
  · rw [BitVec.and_or_distrib_right, resultCode_unused]
    rfl
  all_goals exact resultCode_unused _

/-- The memory state and RENEWING lie below bit 3 and the debt above it, whatever the debt (R139). -/
theorem memoryStatus_unused (s : State) : s.memoryStatus &&& 0x08#8 = 0#8 := by
  have small : s.seq.memory.code ≤ 2 := by cases s.seq.memory <;> decide
  refine ofNat_and_bit_eq_zero (k := 3) ?_
  split <;> omega

/-- Four records at most lie in bits 6 to 4 (R154). -/
theorem engineStatus_unused {e : Engine} (jobs : e.jobs.length ≤ 4) (records : e.completions.length ≤ 4) :
    e.status &&& 0x80#8 = 0#8 := by
  refine ofNat_and_bit_eq_zero (k := 7) ?_
  split <;> omega

theorem controlByte_unused (s : State) : s.controlByte &&& 0xFD#8 = 0#8 := by
  unfold State.controlByte
  split <;> rfl

/-! ### The unused bits of a write are ignored (R174, R177, R178, R168) -/

theorem events_writeOneToClear_mask (e : Events) (v : Byte) :
    e.writeOneToClear (v &&& 0x73#8) = e.writeOneToClear v := by
  simp [Events.writeOneToClear]

theorem streamFlags_writeOneToClear_mask (f : StreamFlags) (v : Byte) :
    f.writeOneToClear (v &&& 0x0F#8) = f.writeOneToClear v := by
  simp [StreamFlags.writeOneToClear]

/-- A mask that is all ones in the low k bits leaves those of the byte. -/
theorem setWidth_and_of_allOnes {k : Nat} {mask : Byte} (ones : mask.setWidth k = BitVec.allOnes k) (v : Byte) :
    (v &&& mask).setWidth k = v.setWidth k := by
  rw [BitVec.setWidth_and, ones, BitVec.and_allOnes]

/-- Both rows that write CONTROL, SOFT_RESET and REGISTER_WRITE, have the one effect of its write. -/
theorem exec_controlWrite {i : Instr} {v : Byte} (access : busAccessOf i = some (.control, .write v))
    (begins : s.accessCanBegin = true) : exec i s = .next (controlWrite v (answeredWrite s)) :=
  exec_write access begins nofun

/-- Only bit 0 of a write of CONTROL counts (R168). -/
theorem controlWrite_congr {v w : Byte} (bit : v.getLsbD 0 = w.getLsbD 0) (s : State) :
    controlWrite v s = controlWrite w s := by
  simp only [controlWrite, bit]

theorem controlWrite_of_bit0_clear {v : Byte} (clear : v.getLsbD 0 = false) (s : State) : controlWrite v s = s := by
  simp only [controlWrite, clear, Bool.false_and, Bool.false_eq_true, if_false]

/-! ### SET_CLOCK as a command (R186) -/

theorem exec_setClock (take : TakesCommand s) :
    exec .setClock s = .next (runSetClock s.port.param (answeredWrite s)) :=
  exec_command (i := .setClock) (code := 0x22#8) rfl take

theorem runSetClock_badParam (outside : p.byteAt 0 < 4 ∨ 100 < p.byteAt 0) (s : State) :
    runSetClock p s = completedWith s .badParam := by
  have refused : p.divisor = none := if_neg (by omega)
  rw [runSetClock, refused]
  rfl

/-- An accepted frequency waits, and the divisor stays as it was. -/
theorem runSetClock_ok (low : 4 ≤ p.byteAt 0) (high : p.byteAt 0 ≤ 100) (s : State) :
    runSetClock p s =
      completedWith { s with clock := { s.clock with nextDivisor := some (p.byteAt 0) } } .ok := by
  have accepted : p.divisor = some (p.byteAt 0) := if_pos ⟨low, high⟩
  rw [runSetClock, accepted]
  rfl

/-! ### The microsecond boundary (R184, R185) -/

theorem exec_microsecondBoundary (high : s.resetLow = false) :
    exec .microsecondBoundary s = .next (microsecondBoundary s) :=
  congrArg _ (whileRunning_high high)

/-- A divisor that waits takes effect at the boundary. -/
theorem clock_boundary_of_waiting {c : Clock} {d : Nat} (waits : c.nextDivisor = some d) :
    c.boundary.divisor = d := by
  simp [Clock.boundary, waits]

theorem clock_boundary_of_none {c : Clock} (idle : c.nextDivisor = none) : c.boundary.divisor = c.divisor := by
  simp [Clock.boundary, idle]

/-- A cycle that is not stretched runs no timer. -/
theorem bus_boundary_of_not_waiting (answered : s.waitAsserted = false) : s.bus.countBoundary = s.bus := by
  unfold State.waitAsserted at answered
  cases bus : s.bus with
  | stretched n a left => simp [bus] at answered
  | answered d => rfl
  | idle => rfl

/-- Only a write stream has a linger timer. -/
theorem stream_boundary_of_not_write {c : Stream} (other : ∀ w, c ≠ .write w) : c.countBoundary = c := by
  cases c with
  | write w => exact (other w rfl).elim
  | read r => rfl
  | closed => rfl

/-- Only the phase SETTLE counts boundaries (R128). -/
theorem startUp_boundary_of_not_settle {u : StartUp} (other : ∀ k, u ≠ .settle k) : u.countBoundary = u := by
  cases u with
  | settle k => exact (other k rfl).elim
  | _ => rfl

@[simp] theorem microsecondBoundary_streams (s : State) (n : StreamId) :
    (microsecondBoundary s).streams[n] = s.streams[n].countBoundary := by
  simp [microsecondBoundary]

@[simp] theorem microsecondBoundary_banks (s : State) (b : BankId) :
    (microsecondBoundary s).seq.banks[b] = s.seq.banks[b].countBoundary := by
  simp [microsecondBoundary]

/-! ### The statements -/

/-- Settles O8: the accesses position by position, and the layouts one by one. -/
theorem accessesThatSuitNoPosition : Obligations.AccessesThatSuitNoPosition := by
  unfold Obligations.AccessesThatSuitNoPosition
  intro s begins
  refine ⟨exec_unmapped_read begins, exec_unmapped_write begins, fun t ends => ?resettingEnds,
    exec_plainRead rfl begins, fun q v => exec_readOnly_write begins v, fun capacity => ?reads, fun v => ?writes⟩
  case resettingEnds => rw [eq_endResetting_of_resettingEnd ends, endResetting_portMisuse]
  case reads =>
    obtain ⟨-, jobs, records⟩ := capacity
    exact ⟨statusByte_unused s.port, byteOfBits_bit7_unused .., setWidth_and_high_eq_zero s.events.enable,
      setWidth_and_high_eq_zero s.events.streamEnable, fun n => streamFlags_byte_unused s.streamFlags[n],
      memoryStatus_unused s, engineStatus_unused jobs records, controlByte_unused s⟩
  case writes =>
    refine ⟨?pending, ?enable, ?streamEnable, fun n => ?stream, fun bit => ?softReset, fun clear => ?control⟩
    case pending => simp only [exec_eventPendingWrite begins, events_writeOneToClear_mask]
    case enable => simp only [exec_eventEnableWrite begins, setWidth_and_of_allOnes (k := 7) (mask := 0x7F#8) rfl]
    case streamEnable =>
      simp only [exec_streamEventEnableWrite begins, setWidth_and_of_allOnes (k := 4) (mask := 0x0F#8) rfl]
    case stream => simp only [exec_streamEventWrite begins, streamFlags_writeOneToClear_mask]
    case softReset =>
      rw [exec_controlWrite (i := .softReset v) rfl begins, exec_controlWrite (i := .softReset 0x01#8) rfl begins,
        controlWrite_congr (w := 0x01#8) bit]
    case control => rw [exec_controlWrite rfl begins, controlWrite_of_bit0_clear clear]

/-- Settles O33: SET_CLOCK by its check, and the boundary timer by timer. -/
theorem setClockActsAtTheNextBoundary : Obligations.SetClockActsAtTheNextBoundary := by
  unfold Obligations.SetClockActsAtTheNextBoundary
  refine ⟨fun s => ⟨fun take outside => ?refused, fun take low high => ?accepted, fun running => ?divisor⟩,
    fun s running => ?timers⟩
  case refused => rw [exec_setClock take, runSetClock_badParam outside]
  case accepted =>
    rw [exec_setClock take, runSetClock_ok low high]
    rfl
  case divisor =>
    exact ⟨_, exec_microsecondBoundary running, rfl, rfl, fun _ => clock_boundary_of_waiting, clock_boundary_of_none⟩
  case timers =>
    refine ⟨_, exec_microsecondBoundary running, rfl, fun n a left stretched => ?stretch,
      bus_boundary_of_not_waiting, fun n => ⟨fun w writer => ?linger, fun other => ?noLinger⟩, fun b => ?rowAge,
      fun k settling => ?settle, startUp_boundary_of_not_settle⟩
    case stretch => exact congrArg Bus.countBoundary stretched
    case linger =>
      rw [microsecondBoundary_streams, writer]
      rfl
    case noLinger => rw [microsecondBoundary_streams, stream_boundary_of_not_write other]
    case rowAge =>
      rw [microsecondBoundary_banks]
      rfl
    case settle => exact congrArg StartUp.countBoundary settling

end Sys2Proof.Proofs.HostBus

/-! PROOFS. One step of the machine and the register window as rows of the table: the front command of the queue, the
state right after reset, the rows that are bus accesses, and the bytes that the positions show (R181, R188). -/

namespace Sys2Proof.Proofs.Window

open Sys2Proof Sys2Proof.Machine Sys2Proof.Safety Sys2Proof.Laws Sys2Proof.Proofs.Streams Sys2Proof.Proofs.HostBus
open Sys2Proof.Proofs.LinePool

variable {s : State}

/-! ### Positions and address lines (R188) -/

theorem positionOf_addressOf (p : Position) : positionOf (addressOf p) = p := by
  cases p with
  | data n => revert n; decide
  | param i => revert i; decide
  | result i => revert i; decide
  | streamEvent n => revert n; decide
  | streamState n => revert n; decide
  | unmapped k => revert k; decide
  | _ => rfl

theorem addressOf_positionOf : ∀ a : BitVec 6, addressOf (positionOf a) = a := by
  decide

/-! ### Rows and accesses (R163, R168, R181) -/

/-- A code that is not in the command code table names the row BAD_COMMAND. -/
theorem commandOfCode_of_not_code {code : Byte} (other : commandCodes.contains code = false) :
    commandOfCode code = .badCommand code := by
  simp [commandCodes] at other
  simp [commandOfCode, other]

/-- The row of a write of COMMAND has operands that its row admits. -/
theorem commandOfCode_wellFormed (code : Byte) : (commandOfCode code).wellFormed = true := by
  by_cases known : commandCodes.contains code = true
  · simp [commandCodes] at known
    rcases known with rfl | rfl | rfl | rfl | rfl | rfl | rfl | rfl | rfl | rfl | rfl | rfl | rfl <;> rfl
  · have other : commandCodes.contains code = false := by simpa using known
    simp [commandOfCode_of_not_code other, Instr.wellFormed, -List.contains_eq_mem, other]

theorem rowOfAccess_wellFormed (p : Position) (a : Access) : (rowOfAccess p a).wellFormed = true := by
  cases a with
  | read => cases p <;> rfl
  | write v =>
    cases p with
    | command => exact commandOfCode_wellFormed v
    | control =>
      change (if v.getLsbD 0 then Instr.softReset v else .registerWrite .control (.write v)).wellFormed = true
      split
      · next bit => exact bit
      · next bit => exact congrArg (!·) (Bool.eq_false_iff.mpr bit)
    | _ => rfl

/-- A row with operands that it admits is the row of its access. -/
theorem rowOfAccess_busAccessOf {i : Instr} {p : Position} {a : Access} (good : i.wellFormed = true)
    (h : busAccessOf i = some (p, a)) : rowOfAccess p a = i := by
  cases i with
  | badCommand code =>
    cases h
    exact commandOfCode_of_not_code (by simpa only [Instr.wellFormed, Bool.not_eq_true'] using good)
  | softReset v =>
    cases h
    exact if_pos good
  | registerWrite q b =>
    cases h
    cases a with
    | read => cases p <;> cases good <;> rfl
    | write v =>
      cases p with
      | control =>
        exact if_neg (by simpa only [Instr.wellFormed, plainWrite, Bool.not_eq_true', Bool.not_eq_true] using good)
      | _ => cases good <;> rfl
  | unmappedAccess k b =>
    cases h
    cases a <;> rfl
  | _ => cases h <;> rfl

/-- Settles O6: each row with its operands, each access, and the 64 positions. -/
theorem accessRowsDecodeAndEncode : Obligations.AccessRowsDecodeAndEncode := by
  unfold Obligations.AccessRowsDecodeAndEncode
  exact ⟨fun i p a => rowOfAccess_busAccessOf,
    fun p a => ⟨rowOfAccess_wellFormed p a, AccessOfRow.busAccessOf_rowOfAccess p a⟩, positionOf_addressOf,
    addressOf_positionOf⟩

/-- Settles O7: a row that is an access runs as it, and an access that cannot begin does nothing. -/
theorem rowsAreBusAccessesThatMayBeHeldOff : Obligations.RowsAreBusAccessesThatMayBeHeldOff := by
  unfold Obligations.RowsAreBusAccessesThatMayBeHeldOff
  intro i p a s access
  refine ⟨exec_access access s, fun heldOff => ?_⟩
  rw [exec_access access, busAccess_heldOff p a (accessCanBegin_eq_false heldOff)]

/-! ### The bytes that the positions show (R165, R188) -/

theorem ofNat_toNat_of_lt {k : Nat} (small : k < 256) : (BitVec.ofNat 8 k).toNat = k := by
  rw [BitVec.toNat_ofNat, Nat.mod_eq_of_lt small]

theorem resultCode_lt (r : ResultCode) : r.code < 10 := by cases r <;> decide

theorem statusByte_executing {q : Port} {c : InProgress} (h : q.state = .executing c) :
    q.statusByte.toNat = 128 + q.lastResult.code := by
  unfold Port.statusByte
  rw [h]
  cases q.lastResult <;> rfl

theorem statusByte_not_executing {q : Port} (h : q.state = .idle ∨ q.state = .resetting) :
    q.statusByte.toNat = q.lastResult.code := by
  have := resultCode_lt q.lastResult
  rcases h with h | h <;> simp only [Port.statusByte, h] <;> exact ofNat_toNat_of_lt (by omega)

theorem packedState_le (c : Stream) : c.packedState ≤ 7 := by
  unfold Stream.packedState
  split
  · omega
  · split_ifs <;> omega
  · split <;> omega

theorem stateByte_toNat {c : Stream} (held : c.heldCount ≤ 16) :
    c.stateByte.toNat = 32 * c.packedState + c.heldCount := by
  have := packedState_le c
  rw [Stream.stateByte, ofNat_toNat_of_lt (by omega), Nat.mul_comm]

theorem memoryStatus_toNat (capped : DebtCapped s) : s.memoryStatus.toNat =
    s.seq.memory.code + (if s.renewal.active then 4 else 0) + 16 * s.renewal.debt := by
  have code : s.seq.memory.code ≤ 2 := by cases s.seq.memory <;> decide
  have flag : (if s.renewal.active then 4 else 0) ≤ 4 := by split <;> omega
  exact ofNat_toNat_of_lt (by omega)

theorem freeCount_le (p : Pool) : p.freeCount ≤ 48 := by
  rw [freeCount_eq_count, ← length_owners p]
  exact List.count_le_length

theorem isIdle_eq (e : Engine) : e.isIdle = decide (e.state = .idle) := by
  unfold Engine.isIdle
  split <;> simp [*]

theorem engineStatus_toNat {e : Engine} (jobs : e.jobs.length ≤ 4) (records : e.completions.length ≤ 4) :
    e.status.toNat = e.jobs.length + (if e.state = .idle then 0 else 8) + 16 * e.completions.length := by
  have flag : (if e.state = .idle then 0 else 8) ≤ 8 := by split <;> omega
  rw [Engine.status, isIdle_eq]
  simp only [decide_eq_true_eq]
  exact ofNat_toNat_of_lt (by omega)

theorem isResetting_eq (s : State) : s.isResetting = decide (s.port.state = .resetting) := by
  unfold State.isResetting
  split <;> simp [*]

theorem controlByte_eq (s : State) : s.controlByte = if s.port.state = .resetting then 0x02#8 else 0x00#8 := by
  simp only [State.controlByte, isResetting_eq, decide_eq_true_eq]

/-- The bits of a byte are the bits that it was made of. -/
theorem byteOfBits_bits (b0 b1 b2 b3 b4 b5 b6 b7 : Bool) :
    (byteOfBits b0 b1 b2 b3 b4 b5 b6 b7).getLsbD 0 = b0 ∧ (byteOfBits b0 b1 b2 b3 b4 b5 b6 b7).getLsbD 1 = b1 ∧
    (byteOfBits b0 b1 b2 b3 b4 b5 b6 b7).getLsbD 2 = b2 ∧ (byteOfBits b0 b1 b2 b3 b4 b5 b6 b7).getLsbD 3 = b3 ∧
    (byteOfBits b0 b1 b2 b3 b4 b5 b6 b7).getLsbD 4 = b4 ∧ (byteOfBits b0 b1 b2 b3 b4 b5 b6 b7).getLsbD 5 = b5 ∧
    (byteOfBits b0 b1 b2 b3 b4 b5 b6 b7).getLsbD 6 = b6 ∧ (byteOfBits b0 b1 b2 b3 b4 b5 b6 b7).getLsbD 7 = b7 := by
  revert b0 b1 b2 b3 b4 b5 b6 b7
  decide

theorem packedState_read (r : ReadStream) :
    (r.ended = false → r.headFilled = false → (Stream.read r).packedState = 1) ∧
    (r.ended = false → r.headFilled = true → (Stream.read r).packedState = 2) ∧
    (r.ended = true → (Stream.read r).packedState = 3) :=
  ⟨fun e f => by simp [Stream.packedState, e, f], fun e f => by simp [Stream.packedState, e, f],
    fun e => by simp [Stream.packedState, e]⟩

theorem packedState_write (w : WriteStream) :
    (w.state = .opened → (Stream.write w).packedState = 4) ∧
    (∀ why, w.state = .blocked why → (Stream.write w).packedState = 5) ∧
    (w.state = .draining → (Stream.write w).packedState = 6) ∧
    (w.state = .ended → (Stream.write w).packedState = 7) := by
  refine ⟨fun h => ?_, fun why h => ?_, fun h => ?_, fun h => ?_⟩ <;> simp only [Stream.packedState, h]

/-- Settles O9: each position's byte, field by field, under the capacities that the fields have room for. -/
theorem registerReadsShowTheirFields : Obligations.RegisterReadsShowTheirFields := by
  unfold Obligations.RegisterReadsShowTheirFields
  refine ⟨fun p s plain begins => exec_plainRead plain begins, fun s capacity capped held => ?fields,
    ⟨rfl, rfl, rfl, rfl, rfl, rfl, rfl, rfl, rfl, rfl⟩, ⟨rfl, rfl, rfl⟩, ⟨rfl, rfl⟩, fun r => ?reads,
    fun w => ?writes⟩
  case fields =>
    obtain ⟨posts, jobs, records⟩ := capacity
    obtain ⟨done, refused, _, _, misuse, late, sync, _⟩ := byteOfBits_bits s.events.cmdDone s.events.cmdRefused
      s.streamSummary s.jobSummary s.events.portMisuse s.events.renewalLate s.events.syncDone false
    refine ⟨fun _ => rfl, fun _ => rfl, fun c => statusByte_executing, statusByte_not_executing,
      fun n => stateByte_toNat (held n), memoryStatus_toNat capped, ?_, ?_, engineStatus_toNat jobs records,
      controlByte_eq s, fun n => ?_, done, refused, misuse, late, sync⟩
    · have := freeCount_le s.pool
      exact ofNat_toNat_of_lt (by omega)
    · exact ofNat_toNat_of_lt (by omega)
    · obtain ⟨b0, b1, b2, b3, _⟩ := byteOfBits_bits s.streamFlags[n].endOfWindow s.streamFlags[n].wrapped
        s.streamFlags[n].underrun s.streamFlags[n].overrun false false false false
      exact ⟨b0, b1, b2, b3⟩
  case reads =>
    obtain ⟨empty, ready, ended⟩ := packedState_read r
    exact ⟨empty, ready, ended, rfl⟩
  case writes =>
    obtain ⟨opened, blocked, draining, ended⟩ := packedState_write w
    exact ⟨opened, blocked, draining, ended, heldCount_write_none, fun a => heldCount_write_some⟩

end Sys2Proof.Proofs.Window

/-! PROOFS. Data ports and posts: the delivery of a READY read (R45, R46), the ends of a stretched cycle (R181, R182),
the placing of a byte (R60 to R62), and the acceptance of a post (R76). -/

namespace Sys2Proof.Proofs.DataPorts

open Sys2Proof Sys2Proof.Machine Sys2Proof.Safety Sys2Proof.Laws Sys2Proof.Proofs.Streams

variable {s : State} {n : StreamId} {r : ReadStream} {w : WriteStream} {e : ReadEntry} {rest : List ReadEntry}

/-! ### Delivery (R45, R46) -/

theorem dataRead_ready (running : s.port.state ≠ .resetting) (h : s.streams[n] = .read r) (notEnded : r.ended = false)
    (queue : r.queue = e :: rest) (filled : e.state = .filled) :
    dataRead n s = State.finish s (s.deliver n r) := by
  simp [dataRead, isResetting_eq_false running, h, ReadStream.ready, ReadStream.headFilled, notEnded, queue, filled]

theorem headByte_of_queue (queue : r.queue = e :: rest) : s.headByte r = Line.at (s.bytesOf e.slot) r.cursor := by
  simp only [State.headByte, queue]

theorem leaving_of_same {next : Nat} (queue : r.queue = e :: rest) (same : e.line = lineOf next) :
    r.leaving next = [] := by
  simp only [ReadStream.leaving, queue, same, if_true]

theorem leaving_of_other {next : Nat} (queue : r.queue = e :: rest) (other : e.line ≠ lineOf next) :
    r.leaving next = [e] := by
  simp only [ReadStream.leaving, queue, other, if_false]

theorem moveTo_of_same {next : Nat} (queue : r.queue = e :: rest) (same : e.line = lineOf next) :
    r.moveTo next = { r with cursor := next } := by
  simp [ReadStream.moveTo, leaving_of_same queue same]

theorem moveTo_of_other {next : Nat} (queue : r.queue = e :: rest) (other : e.line ≠ lineOf next) :
    r.moveTo next = { r with cursor := next, queue := rest } := by
  simp [ReadStream.moveTo, leaving_of_other queue other, queue]

@[simp] theorem releaseEntries_nil (s : State) : s.releaseEntries [] = s := rfl

theorem releaseEntries_filled (filled : e.state = .filled) : s.releaseEntries [e] = s.release e.slot := by
  simp [State.releaseEntries, State.releaseEntry, filled]

/-- Before the end of the window the cursor moves on, and a head whose line it leaves goes. -/
theorem advanceRead_inside (inside : r.cursor ≠ r.window.last) : s.advanceRead n r =
    (s.releaseEntries (r.leaving (r.cursor + 1))).setStream n (.read (r.moveTo (r.cursor + 1))) := by
  simp [State.advanceRead, Window.fin, inside]

theorem advanceRead_stop (last : r.cursor = r.window.last) (policy : r.window.endPolicy = .stop) : s.advanceRead n r =
    ((s.releaseEntries r.queue).setStream n
      (.read { r with cursor := r.cursor + 1, queue := [], ended := true })).mapFlags n StreamFlags.setEnd := by
  simp [State.advanceRead, Window.fin, last, policy]

theorem advanceRead_wrap (last : r.cursor = r.window.last) (policy : r.window.endPolicy = .wrap) : s.advanceRead n r =
    ((s.releaseEntries (r.leaving r.window.first)).setStream n
      (.read (r.moveTo r.window.first))).mapFlags n StreamFlags.setWrapped := by
  simp [State.advanceRead, Window.fin, last, policy]

/-- Settles O14: by the end of the window, its policy, and whether the next byte lies in the head's line. -/
theorem readyReadDeliversAndAdvances : Obligations.ReadyReadDeliversAndAdvances := by
  unfold Obligations.ReadyReadDeliversAndAdvances
  rintro n r e rest s ⟨begins, running⟩ h notEnded queue filled
  rw [exec_dataPortRead begins, dataRead_ready running h notEnded queue filled, State.deliver, headByte_of_queue queue]
  refine ⟨fun inside same => ?_, fun inside other => ?_, fun last policy => ?_, fun last policy same => ?_,
    fun last policy other => ?_⟩
  · rw [advanceRead_inside inside, leaving_of_same queue same, moveTo_of_same queue same]
    rfl
  · rw [advanceRead_inside inside, leaving_of_other queue other, moveTo_of_other queue other,
      releaseEntries_filled filled]
  · rw [advanceRead_stop last policy]
    rfl
  · rw [advanceRead_wrap last policy, leaving_of_same queue same, moveTo_of_same queue same]
    rfl
  · rw [advanceRead_wrap last policy, leaving_of_other queue other, moveTo_of_other queue other,
      releaseEntries_filled filled]
    rfl

/-! ### The ends of a cycle (R181, R182) -/

section
variable (high : s.resetLow = false)
include high

theorem exec_stretchTimerExpiry : exec .stretchTimerExpiry s = .next (stretchExpiry s) :=
  congrArg _ (whileRunning_high high)

theorem exec_strobeRemovedEarly : exec .strobeRemovedEarly s = .next (strobeRemoved s) :=
  congrArg _ (whileRunning_high high)

theorem exec_busCycleEnd : exec .busCycleEnd s = .next (busCycleEnd s) := congrArg _ (whileRunning_high high)

end

theorem stretchExpiry_of_none_left {a : Access} (h : s.bus = .stretched n a 0) :
    stretchExpiry s = (s.loseAccess n a).withBus (.answered (s.expiryAnswer n a)) := by
  simp only [stretchExpiry, h]

theorem stretchExpiry_of_left {a : Access} {left : Nat} (h : s.bus = .stretched n a (left + 1)) :
    stretchExpiry s = s := by
  simp only [stretchExpiry, h]

theorem strobeRemoved_of_stretched {a : Access} {left : Nat} (h : s.bus = .stretched n a left) :
    strobeRemoved s = (s.loseAccess n a).withBus .idle := by
  simp only [strobeRemoved, h]

theorem busCycleEnd_of_answered {d : Option Byte} (h : s.bus = .answered d) : busCycleEnd s = s.withBus .idle := by
  simp only [busCycleEnd, h]

theorem busCycleEnd_of_stretched {a : Access} {left : Nat} (h : s.bus = .stretched n a left) : busCycleEnd s = s := by
  simp only [busCycleEnd, h]

theorem fillByte_of_read (h : s.streams[n] = .read r) : s.fillByte n = r.fill := by
  simp only [State.fillByte, h]

/-- Settles O16: by what ends the cycle and by the access that it was. -/
theorem stretchEndsAndCycleEnds : Obligations.StretchEndsAndCycleEnds := by
  unfold Obligations.StretchEndsAndCycleEnds
  intro s high
  rw [exec_stretchTimerExpiry high, exec_strobeRemovedEarly high, exec_busCycleEnd high]
  refine ⟨fun n r left stretched read => ⟨fun none => ?_, ?_⟩, fun n v left stretched => ⟨fun none => ?_, ?_⟩,
    fun n a left stretched => congrArg _ (stretchExpiry_of_left stretched),
    fun d answered => congrArg _ (busCycleEnd_of_answered answered),
    fun n a left stretched => congrArg _ (busCycleEnd_of_stretched stretched)⟩
  · subst none
    rw [stretchExpiry_of_none_left stretched, State.expiryAnswer, fillByte_of_read read]
    rfl
  · rw [strobeRemoved_of_stretched stretched]
    rfl
  · subst none
    rw [stretchExpiry_of_none_left stretched]
    rfl
  · rw [strobeRemoved_of_stretched stretched]
    rfl

/-! ### Writes (R60 to R62, R66) -/

section
variable (running : s.port.state ≠ .resetting) (v : Byte) (h : s.streams[n] = .write w)
include running h

theorem dataWrite_write : dataWrite n v s = writeStreamWrite n w v (s.withBus (.answered none)) := by
  simp [dataWrite, isResetting_eq_false running, h]

theorem dataWrite_blocked_wait {why : BlockedReason} {limit : Nat} (blocked : w.state = .blocked why)
    (policy : w.window.waitPolicy = .wait limit) : dataWrite n v s = s.withBus (.stretched n (.write v) limit) := by
  rw [dataWrite_write running v h]
  simp only [writeStreamWrite, blocked, State.writeTurnedAway, policy]
  rfl

theorem dataWrite_opened (opened : w.state = .opened) :
    dataWrite n v s = State.finish (answeredWrite s) ((answeredWrite s).writeInOpen n w v) := by
  rw [dataWrite_write running v h]
  simp only [writeStreamWrite, opened]
  rfl

end

theorem writeInOpen_assembly {a : Assembly} (held : w.assembly = some a) (v : Byte) :
    s.writeInOpen n w v = s.placeByte n w a v := by
  simp only [State.writeInOpen, held]

theorem writeInOpen_granted {k : SlotId} (empty : w.assembly = none) (free : s.pool.firstFree = some k) (v : Byte) :
    s.writeInOpen n w v =
      ((s.withPool { s.pool with grantPos := n.castLE (by decide) }).own k (.assembly n)).placeByte n
        (w.withAssembly k) { slot := k, line := lineOf w.cursor, mask := 0#16, frozen := false } v := by
  simp only [State.writeInOpen, empty, free]

theorem writeInOpen_blocked (empty : w.assembly = none) (free : s.pool.firstFree = none) (v : Byte) :
    s.writeInOpen n w v = s.blockNoSlot n w v := by
  simp only [State.writeInOpen, empty, free]

theorem claim_of_noSlot (w : WriteStream) : (Stream.write { w with state := .blocked .noSlot }).claim =
    some { cls := .essential, purpose := .assembly } := rfl

/-! ### Placing a byte (R61, R13, R14) -/

/-- The state with the byte stored in the assembly's slot. -/
def storedByte (s : State) (w : WriteStream) (a : Assembly) (v : Byte) : State :=
  s.fillSlot a.slot (Line.place (s.bytesOf a.slot) w.cursor v)

/-- The stream with its cursor moved on and its linger timer started. -/
def movedOn (w : WriteStream) : WriteStream := { w with cursor := w.cursor + 1, lingerTimer := w.lingerStart }

section
variable {a : Assembly} {v : Byte}

theorem placeByte_inLine (inside : w.cursor ≠ w.window.last) (same : lineOf (w.cursor + 1) = a.line) :
    s.placeByte n w a v = (storedByte s w a v).setStream n
      (.write { movedOn w with assembly := some (a.mark w.cursor), state := .opened }) := by
  have notFin : ¬ w.cursor + 1 = w.window.fin := fun h => inside (Nat.succ_injective h)
  simp only [State.placeByte, notFin, if_false, same, if_true]
  rfl

theorem placeByte_leaving (inside : w.cursor ≠ w.window.last) (other : lineOf (w.cursor + 1) ≠ a.line) :
    s.placeByte n w a v =
      (storedByte s w a v).postAssembly n (movedOn w) (a.mark w.cursor) .opened (.blocked .postFull) := by
  have notFin : ¬ w.cursor + 1 = w.window.fin := fun h => inside (Nat.succ_injective h)
  simp only [State.placeByte, notFin, if_false, other]
  rfl

theorem placeByte_stop (last : w.cursor = w.window.last) (policy : w.window.endPolicy = .stop) :
    s.placeByte n w a v =
      ((storedByte s w a v).postAssembly n (movedOn w) (a.mark w.cursor) .ended .ended).mapFlags n
        StreamFlags.setEnd := by
  have fin : w.cursor + 1 = w.window.fin := congrArg Nat.succ last
  simp only [State.placeByte, fin, if_true, policy]
  simp only [← fin]
  rfl

theorem placeByte_wrap (last : w.cursor = w.window.last) (policy : w.window.endPolicy = .wrap) :
    s.placeByte n w a v =
      ((storedByte s w a v).postAssembly n { movedOn w with cursor := w.window.first } (a.mark w.cursor) .opened
        (.blocked .postFull)).mapFlags n StreamFlags.setWrapped := by
  have fin : w.cursor + 1 = w.window.fin := congrArg Nat.succ last
  simp only [State.placeByte, fin, if_true, policy]
  rfl

end

/-- Settles O18: a write by the stream's state, and the placing of a byte by where the cursor stands. -/
theorem writesPlaceBytesOrClaim : Obligations.WritesPlaceBytesOrClaim := by
  unfold Obligations.WritesPlaceBytesOrClaim
  constructor
  · rintro n w v s ⟨begins, running⟩ h
    rw [exec_dataPortWrite begins]
    refine ⟨fun why limit blocked policy => ?_, fun opened empty => ⟨fun k free => ?_, fun free => ?_⟩,
      fun opened a held => ?_⟩
    · rw [dataWrite_blocked_wait running v h blocked policy]
      rfl
    · rw [dataWrite_opened running v h opened, writeInOpen_granted (s := answeredWrite s) empty free]
      rfl
    · rw [dataWrite_opened running v h opened, writeInOpen_blocked (s := answeredWrite s) empty free, State.blockNoSlot]
      refine ⟨claim_of_noSlot w, fun limit policy => ?_, fun policy => ?_⟩
      · rw [policy]
        rfl
      · rw [policy]
        rfl
    · rw [dataWrite_opened running v h opened, writeInOpen_assembly held]
  · intro n w a v s stored marked moved
    refine ⟨fun inside same => ?_, fun inside other => ?_, fun last policy => ?_, fun last policy => ?_⟩
    · rw [placeByte_inLine inside same]
      rfl
    · rw [placeByte_leaving inside other]
      rfl
    · rw [placeByte_stop last policy]
      rfl
    · rw [placeByte_wrap last policy]
      rfl

/-! ### Posts (R62, R76) -/

theorem full_eq_true {q : PostQueue} (h : 16 ≤ q.entries.length) : q.full = true := decide_eq_true h

theorem full_eq_false {q : PostQueue} (h : q.entries.length < 16) : q.full = false :=
  decide_eq_false (Nat.not_le.mpr h)

theorem acceptPost_merge {line : Nat} {mask : ByteMask} {k : SlotId} {e : PostEntry}
    (waits : s.post.waitingFor line = some e) : s.acceptPost line mask k = some (s.mergePost e line mask k) := by
  simp only [State.acceptPost, waits]

theorem acceptPost_append {line : Nat} {mask : ByteMask} {k : SlotId} (none : s.post.waitingFor line = none)
    (room : s.post.entries.length < 16) : s.acceptPost line mask k = some (s.appendPost line mask k) := by
  simp [State.acceptPost, none, full_eq_false room]

theorem acceptPost_none {line : Nat} {mask : ByteMask} {k : SlotId} (none : s.post.waitingFor line = none)
    (full : 16 ≤ s.post.entries.length) : s.acceptPost line mask k = Option.none := by
  simp [State.acceptPost, none, full_eq_true full]

/-- Settles O19: by the WAITING entry for the line and the places of the queue. -/
theorem postIsMergedAppendedOrHeld : Obligations.PostIsMergedAppendedOrHeld := by
  unfold Obligations.PostIsMergedAppendedOrHeld
  intro line mask k s
  refine ⟨fun e waits => ?_, fun none room => ?_, fun none full => acceptPost_none none full,
    fun n w a x y => ⟨fun t taken => ?_, fun held => ?_⟩⟩
  · rw [acceptPost_merge waits]
    simp only [State.mergePost, PostQueue.merge, PostEntry.waitsFor, decide_eq_true_eq]
  · rw [acceptPost_append none room]
    rfl
  · simp only [State.postAssembly, taken]
  · simp only [State.postAssembly, held]

end Sys2Proof.Proofs.DataPorts

/-! PROOFS. The commands: OPEN_READ and OPEN_WRITE that pass their checks (R9, R10), SEEK, FLUSH and CLOSE (R16, R44,
R50, R69 to R73), SYNC (R81), SUBMIT_JOB (R141), and a write of COMMAND by the command state (R163, R170). -/

namespace Sys2Proof.Proofs.StreamCommands

open Sys2Proof Sys2Proof.Machine Sys2Proof.Safety Sys2Proof.Laws
open Sys2Proof.Proofs.Streams Sys2Proof.Proofs.ReadStreams Sys2Proof.Proofs.HostBus Sys2Proof.Proofs.Commands

variable {s : State} {p : Params} {n : StreamId} {w : WriteStream}

/-! ### The front of the queue -/

/-- Settles O1. -/
theorem stepTakesTheFrontCommand : Obligations.StepTakesTheFrontCommand := by
  unfold Obligations.StepTakesTheFrontCommand
  intro c rest s queue
  simp only [step, queue]
  rfl

/-! ### OPEN_READ and OPEN_WRITE (R9, R10) -/

theorem byteAt_of_code {i : Fin 16} {code : Byte} (h : p[i] = code) : p.byteAt i = code.toNat :=
  congrArg BitVec.toNat h

/-- The window of good parameters, with the policies that their codes name (R9, R10, R167). -/
theorem window_of_good (good : ¬ BadPolicies p) : ∃ x : Window, p.window = some x ∧
    x.first = p.addressAt 1 ∧ x.last = p.addressAt 4 ∧
    (p[7] = 0#8 → x.endPolicy = .stop) ∧ (p[7] = 1#8 → x.endPolicy = .wrap) ∧
    (p[8] = 0#8 → x.waitPolicy = .nowait) ∧ (p[8] = 1#8 → x.waitPolicy = .wait p[9].toNat) := by
  cases h : p.window with
  | none => exact (good (window_eq_none_iff.mp h)).elim
  | some x =>
    obtain ⟨first, last⟩ := window_addresses h
    unfold Params.window at h
    split at h
    · next e w he hw =>
      cases h
      refine ⟨_, rfl, first, last, fun code => ?_, fun code => ?_, fun code => ?_, fun code => ?_⟩
      · have zero : p.byteAt 7 = 0 := byteAt_of_code (i := 7) code
        simpa [Params.endPolicy, zero] using he.symm
      · have one : p.byteAt 7 = 1 := byteAt_of_code (i := 7) code
        simpa [Params.endPolicy, one] using he.symm
      · have zero : p.byteAt 8 = 0 := byteAt_of_code (i := 8) code
        simpa [Params.waitPolicy, zero] using hw.symm
      · have one : p.byteAt 8 = 1 := byteAt_of_code (i := 8) code
        simp only [Params.waitPolicy, one, Nat.one_ne_zero, if_false, if_true] at hw
        split at hw
        · exact (Option.some.inj hw).symm
        · cases hw
    · cases h

theorem openContext_ok {x : Window} {c : Stream} (started : s.seq.memory = .started)
    (valid : x.valid s.timing.fittedSize = true) :
    s.openContext n x c = State.finish s (completedWith (s.setStream n c) .ok) := by
  simp [State.openContext, started, valid, complete_eq]

/-- A fresh read stream has a fetch need at once (R38). -/
theorem fetchNeed_of_fresh {r : ReadStream} (notEnded : r.ended = false) (empty : r.queue = []) (deep : 1 ≤ r.depth)
    (cursor : r.fetchCursor ≤ lineOf r.window.last) : r.fetchNeed = true := by
  have room : 0 < r.depth := deep
  have within : r.withinWindow = true := by
    unfold ReadStream.withinWindow
    split
    · rfl
    · exact decide_eq_true cursor
  simp [ReadStream.fetchNeed, notEnded, empty, ReadStream.hasRequested, within, room]

theorem lineOf_mono {a b : Nat} (h : a ≤ b) : lineOf a ≤ lineOf b := by
  unfold lineOf
  omega

/-- The context that OPEN_READ makes on a window (R9). -/
def freshReader (p : Params) (x : Window) : ReadStream :=
  { window := x, cursor := x.first, fetchCursor := lineOf x.first, depth := p.byteAt 10, fill := p[11], queue := [],
    ended := false }

/-- The context that OPEN_WRITE makes on a window (R10). -/
def freshWriter (p : Params) (x : Window) : WriteStream :=
  { window := x, cursor := x.first, linger := p.byteAt 10, lingerTimer := none, assembly := none, state := .opened }

theorem readContext_of_window {x : Window} (window : p.window = some x) (low : 1 ≤ p.byteAt 10)
    (high : p.byteAt 10 ≤ 8) : p.readContext = some (x, .read (freshReader p x)) := by
  have depth : p.depth = some (p.byteAt 10) := if_pos ⟨low, high⟩
  simp only [Params.readContext, window, depth]
  rfl

theorem writeContext_of_window {x : Window} (window : p.window = some x) :
    p.writeContext = some (x, .write (freshWriter p x)) := by
  simp only [Params.writeContext, window]
  rfl

/-- Settles O20: the contexts that good parameters make, and the opening when the last two checks pass. -/
theorem openMakesTheContextAskedFor : Obligations.OpenMakesTheContextAskedFor := by
  unfold Obligations.OpenMakesTheContextAskedFor
  constructor
  · intro n s take closed hn good low high started fits
    obtain ⟨x, window, first, last, stop, wrap, nowait, wait⟩ := window_of_good good
    have valid := (window_valid_iff window (answeredWrite s)).mpr fits
    have ordered : x.first ≤ x.last := first ▸ last ▸ fits.1
    have need : (freshReader s.port.param x).fetchNeed = true := fetchNeed_of_fresh rfl rfl low (lineOf_mono ordered)
    refine ⟨freshReader s.port.param x, first, last, stop, wrap, nowait, wait, rfl, rfl, rfl, rfl, rfl, rfl, rfl,
      need, ?_⟩
    rw [exec_openRead take, readContext_of_window window low high, openStream_closed (s := answeredWrite s) hn closed,
      openContext_ok (s := answeredWrite s) started valid]
  · intro n s take closed hn good started fits
    obtain ⟨x, window, first, last, stop, wrap, nowait, wait⟩ := window_of_good good
    have valid := (window_valid_iff window (answeredWrite s)).mpr fits
    refine ⟨freshWriter s.port.param x, first, last, stop, wrap, nowait, wait, rfl, rfl, rfl, rfl, rfl, rfl, ?_⟩
    rw [exec_openWrite take, writeContext_of_window window, openStream_closed (s := answeredWrite s) hn closed,
      openContext_ok (s := answeredWrite s) started valid]

/-! ### SEEK, FLUSH and CLOSE refused (R16, R50, R69) -/

theorem exec_flush (take : TakesCommand s) : exec .flush s = .next (runFlush s.port.param (answeredWrite s)) :=
  exec_command (i := .flush) (code := 0x04#8) rfl take

/-- Settles O22: the three commands by the stream that they name. -/
theorem streamCommandsRefuseInOrder : Obligations.StreamCommandsRefuseInOrder := by
  unfold Obligations.StreamCommandsRefuseInOrder
  intro s take
  refine ⟨fun above i row => ?_, fun n hn => ⟨fun closed i row => ?_, fun r read => ?_, fun x window outside => ?_⟩⟩
  · have none := stream_none above
    rcases row with rfl | rfl | rfl
    · simp only [exec_seek take, runSeek, none, complete_eq]
    · simp only [exec_flush take, runFlush, none, complete_eq]
    · simp only [exec_close take, runClose, none, complete_eq]
  · have named := stream_of_param hn
    have same : (answeredWrite s).streams[n] = .closed := closed
    rcases row with rfl | rfl | rfl
    · simp only [exec_seek take, runSeek, named, same, complete_eq]
    · simp only [exec_flush take, runFlush, named, same, complete_eq]
    · simp only [exec_close take, runClose, named, same, complete_eq]
  · have same : (answeredWrite s).streams[n] = .read r := read
    simp only [exec_flush take, runFlush, stream_of_param hn, same, complete_eq]
  · have refused : x.holds (Params.target s.port.param) = false := by
      refine decide_eq_false fun inside => ?_
      unfold Params.target at inside
      omega
    rw [exec_seek take]
    rcases window with ⟨r, read, rfl⟩ | ⟨w, write, rfl⟩
    · have same : (answeredWrite s).streams[n] = .read r := read
      simp [runSeek, stream_of_param hn, same, refused, complete_eq]
    · have same : (answeredWrite s).streams[n] = .write w := write
      simp [runSeek, stream_of_param hn, same, refused, complete_eq]

/-! ### Entries let go (R44) -/

theorem releaseEntry_kept {e : ReadEntry} (h : e.state = .filled ∨ e.state = .requested) :
    s.releaseEntry e = s.release e.slot := by
  rcases h with h | h <;> simp only [State.releaseEntry, h]

theorem releaseEntry_inFlight {e : ReadEntry} (h : e.state = .inFlight) :
    s.releaseEntry e = s.discardFetch e.line e.slot := by
  simp only [State.releaseEntry, h]

theorem markDiscard_of_owner {b : Bank} {o : OwnerRecord} {k : SlotId} (owner : b.owner = some o)
    (fetch : o.op = .fetch) (slot : o.slot = k) : Bank.markDiscard k b = { b with owner := some { o with discard := true } } := by
  simp [Bank.markDiscard, owner, fetch, slot]

/-- Settles O23: by the state of the entry. -/
theorem removedEntriesAreReleasedByState : Obligations.RemovedEntriesAreReleasedByState := by
  unfold Obligations.RemovedEntriesAreReleasedByState
  intro e s
  refine ⟨fun kept => ?_, fun flying o owner fetch slot => ?_, ?_, ?_, rfl, fun es => rfl⟩
  · rw [releaseEntry_kept kept]
    rfl
  · rw [releaseEntry_inFlight flying, State.discardFetch, markDiscard_of_owner owner fetch slot]
    rfl
  · rcases releaseEntry_cases s e with h | ⟨_, h⟩ <;> rw [h] <;> rfl
  · rcases releaseEntry_cases s e with h | ⟨_, h⟩ <;> rw [h] <;> rfl

/-! ### FLUSH, SEEK and CLOSE of a write stream (R70 to R73) -/

/-- What the table of R70 asks of a row, from the row's being the command on the stream. -/
theorem writeCommandTable_of_run {i : Instr} {c : LongCommand} {effect waiting : WriteStream → Stream}
    (run : exec i s =
      .next (State.finish (answeredWrite s) ((answeredWrite s).writeStreamCommand n w c s.port.param)))
    (drains : ∀ a, drainEffect c (Params.target s.port.param) { w with assembly := a } = effect w)
    (waits : noSlotEffect c (Params.target s.port.param) w = waiting w) :
    WriteCommandTable i c effect waiting n w s := by
  have drained : drainEffect c (Params.target s.port.param) w = effect w := drains w.assembly
  refine ⟨fun opened empty => ?_, fun a opened held unset => ?_, fun a t opened held set taken => ?_,
    fun a opened held set refused => ?_, fun blocked => ?_, fun blocked => ?_⟩
  · rw [run]
    simp only [State.writeStreamCommand, opened, empty, State.finishDrain, drained, complete_eq]
  · rw [run]
    simp only [State.writeStreamCommand, opened, held, unset, if_true, State.finishDrain, drained, complete_eq]
  · rw [run]
    simp only [State.writeStreamCommand, opened, held, set, if_false, taken, State.finishDrain, drained, complete_eq]
  · rw [run]
    simp only [State.writeStreamCommand, opened, held, set, if_false, refused]
    rfl
  · rw [run]
    simp only [State.writeStreamCommand, blocked]
    rfl
  · rw [run]
    simp only [State.writeStreamCommand, blocked, waits, complete_eq]

section
variable (take : TakesCommand s) (hn : s.port.param[0].toNat = n.val) (h : s.streams[n] = .write w)
include take hn h

theorem exec_flush_write : exec .flush s =
    .next (State.finish (answeredWrite s) ((answeredWrite s).writeStreamCommand n w .flush s.port.param)) := by
  have same : (answeredWrite s).streams[n] = .write w := h
  simp only [exec_flush take, runFlush, stream_of_param hn, same]

theorem exec_close_write : exec .close s =
    .next (State.finish (answeredWrite s) ((answeredWrite s).writeStreamCommand n w .close s.port.param)) := by
  have same : (answeredWrite s).streams[n] = .write w := h
  simp only [exec_close take, runClose, stream_of_param hn, same]

theorem exec_seek_write (low : w.window.first ≤ Params.target s.port.param)
    (high : Params.target s.port.param ≤ w.window.last) : exec .seek s =
    .next (State.finish (answeredWrite s) ((answeredWrite s).writeStreamCommand n w .seek s.port.param)) := by
  have same : (answeredWrite s).streams[n] = .write w := h
  have inside : w.window.holds (Params.target s.port.param) = true := decide_eq_true ⟨low, high⟩
  simp only [exec_seek take, runSeek, stream_of_param hn, same, inside, if_true]

end

theorem writeStreamCommand_ended_flush (ended : w.state = .ended) :
    s.writeStreamCommand n w .flush p = completedWith s .ok := by
  simp only [State.writeStreamCommand, ended, complete_eq]

/-- An ENDED stream without assembly takes the effect of SEEK or CLOSE at once (R72, R73). -/
theorem writeStreamCommand_ended_empty {c : LongCommand} (other : c ≠ .flush) (ended : w.state = .ended)
    (empty : w.assembly = none) : s.writeStreamCommand n w c p =
      completedWith (s.setStream n (drainEffect c p.target w)) .ok := by
  cases c with
  | flush => exact (other rfl).elim
  | _ => simp only [State.writeStreamCommand, ended, empty, State.finishDrain, complete_eq]

/-- An ENDED stream whose post is held drains (R72, R73, R74). -/
theorem writeStreamCommand_ended_held {c : LongCommand} {a : Assembly} (other : c ≠ .flush) (ended : w.state = .ended)
    (held : w.assembly = some a) : s.writeStreamCommand n w c p =
      (s.setStream n (.write (drainingStream w))).stayExecuting c p := by
  cases c with
  | flush => exact (other rfl).elim
  | _ =>
    simp only [State.writeStreamCommand, ended, held]
    rfl

/-- Settles O25: the table of R70 for the three rows, and the rows of ENDED. -/
theorem flushSeekAndCloseOfWriteStream : Obligations.FlushSeekAndCloseOfWriteStream := by
  unfold Obligations.FlushSeekAndCloseOfWriteStream
  refine ⟨fun n w s take hn h => ?flush, fun n w s t take hn h target low high => ?seek, fun n w s take hn h => ?close⟩
  case flush =>
    have run := exec_flush_write take hn h
    refine ⟨writeCommandTable_of_run run (fun _ => rfl) rfl, fun ended => ?_⟩
    rw [run, writeStreamCommand_ended_flush ended]
  case seek =>
    subst target
    have run := exec_seek_write take hn h low high
    refine ⟨writeCommandTable_of_run run (fun _ => rfl) rfl, fun ended empty => ?_, fun ended ⟨a, held⟩ => ?_⟩
    · rw [run, writeStreamCommand_ended_empty (by decide) ended empty]
      rfl
    · rw [run, writeStreamCommand_ended_held (by decide) ended held]
      rfl
  case close =>
    have run := exec_close_write take hn h
    refine ⟨writeCommandTable_of_run run (fun _ => rfl) rfl, fun ended empty => ?_, fun ended ⟨a, held⟩ => ?_⟩
    · rw [run, writeStreamCommand_ended_empty (by decide) ended empty]
      rfl
    · rw [run, writeStreamCommand_ended_held (by decide) ended held]
      rfl

/-! ### SYNC (R81) -/

theorem exec_sync (take : TakesCommand s) : exec .sync s = .next (runSync (answeredWrite s)) :=
  exec_command (i := .sync) (code := 0x08#8) rfl take

/-- Settles O27: by whether the Post Queue has entries. -/
theorem syncTagsEveryEntryPresent : Obligations.SyncTagsEveryEntryPresent := by
  unfold Obligations.SyncTagsEveryEntryPresent
  intro s take
  rw [exec_sync take]
  refine ⟨fun none => ?_, fun some => ?_⟩
  · have empty : (answeredWrite s).post.entries.isEmpty = true := List.isEmpty_iff.mpr none
    simp only [runSync, State.tagOrReport, empty, if_true]
    rfl
  · have full : (answeredWrite s).post.entries.isEmpty = false := Bool.eq_false_iff.mpr (mt List.isEmpty_iff.mp some)
    simp only [runSync, State.tagOrReport, full, Bool.false_eq_true, if_false]
    rfl

/-! ### SUBMIT_JOB (R141) -/

theorem exec_submitJob (take : TakesCommand s) :
    exec .submitJob s = .next (runSubmitJob s.port.param (answeredWrite s)) :=
  exec_command (i := .submitJob) (code := 0x10#8) rfl take

/-- The work that the parameters name, by the kind code (R141, R167). -/
def NamesWork (p : Params) (work : Work) : Prop :=
  (p[1] = 1#8 ∧ work = .copy (p.addressAt 2) (p.addressAt 5)) ∨ (p[1] = 2#8 ∧ work = .fill (p.addressAt 2) p[11]) ∨
    (p[1] = 3#8 ∧ p[14] = 0#8 ∧ work = .scan (p.addressAt 2) p[12] p[13] .onMatch) ∨
    (p[1] = 3#8 ∧ p[14] = 1#8 ∧ work = .scan (p.addressAt 2) p[12] p[13] .onMismatch) ∨
    (p[1] = 4#8 ∧ work = .compare (p.addressAt 2) (p.addressAt 5))

theorem work_of_names {work : Work} (h : NamesWork p work) : p.work = some work := by
  rcases h with ⟨k, rfl⟩ | ⟨k, rfl⟩ | ⟨k, c, rfl⟩ | ⟨k, c, rfl⟩ | ⟨k, rfl⟩
  · simp [Params.work, byteAt_of_code (i := 1) k]
  · simp [Params.work, byteAt_of_code (i := 1) k]
  · simp [Params.work, byteAt_of_code (i := 1) k, Params.stopCondition, byteAt_of_code (i := 14) c]
  · simp [Params.work, byteAt_of_code (i := 1) k, Params.stopCondition, byteAt_of_code (i := 14) c]
  · simp [Params.work, byteAt_of_code (i := 1) k]

theorem job_of_names {work : Work} (h : NamesWork p work) (nonzero : p.addressAt 8 ≠ 0) :
    p.job = some { tag := p[0], work := work, length := p.addressAt 8 } := by
  simp [Params.job, work_of_names h, nonzero]

/-- Check 1 of R141 fails for a kind, a length or a stop condition with no meaning. -/
theorem job_eq_none (h : p.byteAt 1 = 0 ∨ 4 < p.byteAt 1 ∨ p.addressAt 8 = 0 ∨ (p.byteAt 1 = 3 ∧ 1 < p.byteAt 14)) :
    p.job = none := by
  by_cases zero : p.addressAt 8 = 0
  · unfold Params.job
    split
    · exact if_pos zero
    · rfl
  · have noWork : p.work = none := by
      rcases h with unused | beyond | empty | ⟨scan, stop⟩
      · simp [Params.work, unused]
      · simp [Params.work, show p.byteAt 1 ≠ 1 by omega, show p.byteAt 1 ≠ 2 by omega, show p.byteAt 1 ≠ 3 by omega,
          show p.byteAt 1 ≠ 4 by omega]
      · exact (zero empty).elim
      · simp [Params.work, Params.stopCondition, scan, show p.byteAt 14 ≠ 0 by omega, show p.byteAt 14 ≠ 1 by omega]
    simp only [Params.job, noWork]

/-- Check 3 of R141 for the work that the parameters name. -/
theorem fits_iff_of_names {work : Work} (h : NamesWork p work) (tag : Byte) (length fitted : Nat) :
    (Job.fits { tag := tag, work := work, length := length } fitted = true ↔ p.addressAt 2 + length ≤ fitted ∧
      (p[1] = 1#8 ∨ p[1] = 4#8 → p.addressAt 5 + length ≤ fitted)) := by
  rcases h with ⟨k, rfl⟩ | ⟨k, rfl⟩ | ⟨k, _, rfl⟩ | ⟨k, _, rfl⟩ | ⟨k, rfl⟩ <;> simp [Job.fits, k]

section
variable {j : Job} (job : p.job = some j)
include job

theorem runSubmitJob_notStarted (stopped : s.seq.memory ≠ .started) :
    runSubmitJob p s = completedWith s .notStarted := by
  simp [runSubmitJob, job, stopped, complete_eq]

variable (started : s.seq.memory = .started)
include started

theorem runSubmitJob_outOfWindow (outside : j.fits s.timing.fittedSize = false) :
    runSubmitJob p s = completedWith s .outOfWindow := by
  simp [runSubmitJob, job, started, outside, complete_eq]

variable (inside : j.fits s.timing.fittedSize = true)
include inside

theorem runSubmitJob_queueFull (full : 4 ≤ s.engine.jobs.length) : runSubmitJob p s = completedWith s .queueFull := by
  simp [runSubmitJob, job, started, inside, Config.jobPlaces, full, complete_eq]

theorem runSubmitJob_ok (room : s.engine.jobs.length < 4) :
    runSubmitJob p s = State.finish s (completedWith (s.submit j) .ok) := by
  simp [runSubmitJob, job, started, inside, Config.jobPlaces, Nat.not_le.mpr room, complete_eq]

end

/-- Settles O28: the checks of R141, one after the other. -/
theorem submitJobChecksAndQueues : Obligations.SubmitJobChecksAndQueues := by
  unfold Obligations.SubmitJobChecksAndQueues
  intro s take p a b length fitted
  rw [exec_submitJob take]
  refine ⟨fun bad => ?_, fun work names nonzero => ?_⟩
  · have noJob : Params.job s.port.param = none := by
      refine job_eq_none (bad.imp_right (Or.imp_right (Or.imp_right fun ⟨kind, stop⟩ => ?_)))
      exact ⟨byteAt_of_code (p := p) (i := 1) kind, stop⟩
    simp only [runSubmitJob, noJob, complete_eq]
  · have job := job_of_names (p := p) names nonzero
    have fits_iff := fits_iff_of_names (p := p) names p[0] length fitted
    refine ⟨fun stopped => ?_, fun started => ⟨fun outside => ?_, fun inA inB => ?_⟩⟩
    · rw [runSubmitJob_notStarted (s := answeredWrite s) job stopped]
    · have refused : ¬ Job.fits { tag := p[0], work := work, length := length } fitted = true := by
        rw [fits_iff]
        rintro ⟨inA, inB⟩
        rcases outside with outA | ⟨kind, outB⟩
        · exact Nat.not_le.mpr outA inA
        · exact Nat.not_le.mpr outB (inB kind)
      rw [runSubmitJob_outOfWindow (s := answeredWrite s) job started (Bool.eq_false_iff.mpr refused)]
    · have inside := fits_iff.mpr ⟨inA, inB⟩
      refine ⟨fun full => ?_, fun room => ?_⟩
      · rw [runSubmitJob_queueFull (s := answeredWrite s) job started inside full]
      · rw [runSubmitJob_ok (s := answeredWrite s) job started inside room]
        rfl

end Sys2Proof.Proofs.StreamCommands

/-! PROOFS. Taking commands by the command state (R163, R170), soft reset's entry and end (R169, R171), the linger and
row age timers (R63, R117), renewals (R133 to R137), start-up (R127 to R132), and the division of an address (R99). -/

namespace Sys2Proof.Proofs.Control

open Sys2Proof Sys2Proof.Machine Sys2Proof.Safety Sys2Proof.Laws
open Sys2Proof.Proofs.Streams Sys2Proof.Proofs.Events Sys2Proof.Proofs.HostBus Sys2Proof.Proofs.Commands
open Sys2Proof.Proofs.LinePool

variable {s t : State} {n : StreamId} {b : BankId}

/-! ### Commands by the command state (R163, R170) -/

section
variable {i : Instr} {code : Byte} (access : busAccessOf i = some (.command, .write code))
  (begins : s.accessCanBegin = true)
include access begins

theorem exec_command_idle (idle : s.port.state = .idle) :
    exec i s = .next (runCommand code s.port.param (answeredWrite s)) := exec_command access ⟨begins, idle⟩

theorem exec_command_executing {c : InProgress} (executing : s.port.state = .executing c) :
    exec i s = .next { s with bus := .answered none, events := { s.events with cmdRefused := true } } := by
  rw [exec_write access begins nofun, registerWrite, commandWrite, withBus_port, executing]
  rfl

theorem exec_command_resetting (resetting : s.port.state = .resetting) : exec i s = .next (answeredWrite s) := by
  rw [exec_write access begins nofun, registerWrite, commandWrite, withBus_port, resetting]
  rfl

end

theorem runCommand_badCommand {code : Byte} (other : commandCodes.contains code = false) (p : Params) :
    runCommand code p s = completedWith s .badCommand := by
  simp [commandCodes] at other
  simp [runCommand, other, complete_eq]

theorem isResetting_of_resetting (resetting : s.port.state = .resetting) : s.isResetting = true := by
  simp only [State.isResetting, resetting]

section
variable (begins : s.accessCanBegin = true) (resetting : s.port.state = .resetting)
include begins resetting

theorem exec_dataPortRead_resetting (n : StreamId) :
    exec (.dataPortRead n) s = .next { s with bus := .answered (some 0xFF#8) } := by
  rw [exec_dataPortRead begins, dataRead, if_pos (isResetting_of_resetting resetting)]
  rfl

theorem exec_dataPortWrite_resetting (n : StreamId) (v : Byte) :
    exec (.dataPortWrite n v) s = .next (answeredWrite s) := by
  rw [exec_dataPortWrite begins]
  exact congrArg _ (if_pos (isResetting_of_resetting resetting))

theorem exec_softReset_resetting (v : Byte) : exec (.softReset v) s = .next (answeredWrite s) := by
  have busy : (answeredWrite s).isResetting = true := isResetting_of_resetting resetting
  rw [exec_controlWrite (i := .softReset v) rfl begins, controlWrite, busy, Bool.not_true, Bool.and_false,
    if_neg Bool.false_ne_true]

end

/-- Settles O34: a write of COMMAND in each command state, and the other accesses in RESETTING. -/
theorem commandsAndAccessesByCommandState : Obligations.CommandsAndAccessesByCommandState := by
  unfold Obligations.CommandsAndAccessesByCommandState
  refine ⟨fun i code s access begins => ⟨fun c => exec_command_executing access begins,
    exec_command_resetting access begins, fun idle other => ?_, exec_command_idle access begins⟩,
    fun s begins resetting ok => ⟨exec_dataPortRead_resetting begins resetting,
      exec_dataPortWrite_resetting begins resetting, fun i code access => exec_command_resetting access begins resetting,
      exec_softReset_resetting begins resetting, exec_param_write begins, ?_, ?_,
      fun p plain => exec_plainRead plain begins⟩⟩
  · rw [exec_command_idle access begins idle, runCommand_badCommand other]
  · simp only [State.registerByte, Port.statusByte, resetting, ok]
    rfl
  · exact if_pos (isResetting_of_resetting resetting)

/-! ### Entry to RESETTING (R169) -/

theorem exec_softReset (take : TakesAccess s) {v : Byte} (bit : v.getLsbD 0 = true) :
    exec (.softReset v) s = .next (State.finish (answeredWrite s) (answeredWrite s).enterResetting) := by
  have running : (answeredWrite s).isResetting = false := isResetting_eq_false take.2
  rw [exec_controlWrite (i := .softReset v) rfl take.1, controlWrite, running, bit, Bool.not_false, Bool.and_true,
    if_pos rfl]

theorem abandonStartUp_starting (h : s.seq.memory = .starting) : s.abandonStartUp =
    { s with seq := { s.seq with memory := .unstarted }, startUp := .none } := by
  simp only [State.abandonStartUp, h, if_true]
  rfl

theorem abandonStartUp_other (h : s.seq.memory ≠ .starting) : s.abandonStartUp = s := if_neg h

/-- The state at entry to RESETTING, but for what becomes of a start-up sequence. -/
def resettingState (s : State) : State :=
  (((((s.withPool s.resetPool).closeStreams).withPost s.post.softReset).withEngine Engine.reset).mapSeq
    Sequencer.softReset).withPort s.port.softReset

theorem enterResetting_eq (s : State) : s.enterResetting = (resettingState s).abandonStartUp := rfl

theorem enterResetting_frame (s : State) : s.enterResetting =
    { resettingState s with
      seq := { (resettingState s).seq with memory := s.enterResetting.seq.memory }
      startUp := s.enterResetting.startUp } := by
  rw [enterResetting_eq]
  by_cases h : s.seq.memory = .starting
  · rw [abandonStartUp_starting (s := resettingState s) h]
  · rw [abandonStartUp_other (s := resettingState s) h]

theorem fetchesInto_iff {q : Sequencer} {k : SlotId} : q.fetchesInto k = true ↔
    ∃ (b : BankId) (o : OwnerRecord), q.banks[b].owner = some o ∧ o.op = .fetch ∧ o.slot = k := by
  rw [Sequencer.fetchesInto, banks_any]
  refine exists_congr fun b => ?_
  cases q.banks[b].owner <;> simp

theorem anyStores_iff {es : List PostEntry} {k : SlotId} : (es.any fun e => e.storesFrom k) = true ↔
    ∃ e ∈ es, e.slot = k ∧ e.state = .retiring := by
  simp [PostEntry.storesFrom]

/-- What becomes of each slot at entry to RESETTING (R32). -/
theorem resetOwner_cases (s : State) (k : SlotId) :
    ((∃ (b : BankId) (o : OwnerRecord), s.seq.banks[b].owner = some o ∧ o.op = .fetch ∧ o.slot = k) ∧
      s.resetOwner k = .discard) ∨
    ((¬ ∃ (b : BankId) (o : OwnerRecord), s.seq.banks[b].owner = some o ∧ o.op = .fetch ∧ o.slot = k) ∧
      (((∃ e ∈ s.post.entries, e.slot = k ∧ e.state = .retiring) ∧ s.resetOwner k = .post) ∨
        ((¬ ∃ e ∈ s.post.entries, e.slot = k ∧ e.state = .retiring) ∧ s.resetOwner k = .free))) := by
  simp only [← fetchesInto_iff, ← anyStores_iff, State.resetOwner]
  by_cases fetched : s.seq.fetchesInto k = true
  · simp [fetched]
  · by_cases stored : (s.post.entries.any fun e => e.storesFrom k) = true
    · simp only [fetched, stored, Bool.false_eq_true, if_true, if_false, false_and, not_false_eq_true, true_and, false_or,
        not_true, or_false]
    · simp only [fetched, stored, Bool.false_eq_true, if_false, false_and, not_false_eq_true, true_and, false_or]

@[simp] theorem resetPool_owner (s : State) (k : SlotId) : s.resetPool.slots[k].owner = s.resetOwner k := by
  simp [State.resetPool]

@[simp] theorem resetPool_bytes (s : State) (k : SlotId) : s.resetPool.slots[k].bytes = s.bytesOf k := by
  simp [State.resetPool, State.bytesOf]

/-- Settles O35: what each block does, and the start-up sequence that is abandoned. -/
theorem softResetEntryActsOnEveryBlock : Obligations.SoftResetEntryActsOnEveryBlock := by
  unfold Obligations.SoftResetEntryActsOnEveryBlock
  intro v s bit take
  have frame := enterResetting_frame (answeredWrite s)
  have pool : (answeredWrite s).enterResetting.pool = (answeredWrite s).resetPool := by rw [frame]; rfl
  refine ⟨_, exec_softReset take bit, ?_, fun k => ⟨?_, fun fetched => ?_, fun noFetch => ⟨fun stored => ?_, fun kept => ?_⟩⟩,
    ?_, fun b => ?_, fun starting => ?_, fun other => ?_⟩
  · conv_lhs => rw [frame]
    rw [frame]
    rfl
  · rw [State.bytesOf, pool, resetPool_bytes]
    rfl
  · rw [pool, resetPool_owner]
    rcases resetOwner_cases (answeredWrite s) k with ⟨_, h⟩ | ⟨not, _⟩
    · exact h
    · exact (not fetched).elim
  · rw [pool, resetPool_owner]
    rcases resetOwner_cases (answeredWrite s) k with ⟨⟨b, o, owner, fetch, slot⟩, _⟩ | ⟨_, ⟨_, h⟩ | ⟨not, _⟩⟩
    · exact (noFetch b o owner fetch slot).elim
    · exact h
    · exact (not stored).elim
  · rw [pool, resetPool_owner]
    rcases resetOwner_cases (answeredWrite s) k with ⟨⟨b, o, owner, fetch, slot⟩, _⟩ | ⟨_, ⟨⟨e, he, slot, st⟩, _⟩ | ⟨_, h⟩⟩
    · exact (noFetch b o owner fetch slot).elim
    · exact (kept e he slot st).elim
    · exact h
  · rw [frame]
    rfl
  · rw [frame]
    simp [resettingState, Sequencer.softReset]
    rfl
  · rw [enterResetting_eq, abandonStartUp_starting (s := resettingState (answeredWrite s)) starting]
    exact ⟨rfl, rfl⟩
  · rw [enterResetting_eq, abandonStartUp_other (s := resettingState (answeredWrite s)) other]
    exact ⟨rfl, rfl⟩

/-! ### The end of RESETTING (R171) -/

theorem resettingEnd_of_unowned (resetting : s.port.state = .resetting)
    (unowned : ∀ b : BankId, s.seq.banks[b].owner = none) : resettingEnd s = some s.endResetting := by
  have busy : s.isResetting = true := by simp only [State.isResetting, resetting]
  simp [resettingEnd, busy, (anyOwner_eq_false_iff s.seq).mpr unowned]

theorem resettingEnd_of_owned (owned : ∃ b : BankId, s.seq.banks[b].owner ≠ none) : resettingEnd s = none := by
  have some : s.seq.anyOwner = true := by
    rw [← Bool.not_eq_false, anyOwner_eq_false_iff, not_forall]
    exact owned
  simp [resettingEnd, some]

theorem exec_resettingEnd (high : s.resetLow = false) :
    exec .resettingEnd s = .next (consequence resettingEnd s) := congrArg _ (whileRunning_high high)

/-- In RESETTING, with no bank owned, no holder of a slot is left (R171). -/
theorem all_free_of_quiet (held : SlotsHeld s) (operations : OperationsLawful s) (quiet : ResettingQuiet s)
    (resetting : s.port.state = .resetting) (unowned : ∀ b : BankId, s.seq.banks[b].owner = none) (k : SlotId) :
    s.pool.slots[k].owner = .free := by
  obtain ⟨closed, engine, -, retiring⟩ := quiet resetting
  cases h : s.pool.slots[k].owner with
  | free => rfl
  | read n =>
    obtain ⟨r, e, read, -⟩ := held.readHeld k n h
    rw [closed n] at read
    cases read
  | assembly n =>
    obtain ⟨w, a, write, -⟩ := held.assemblyHeld k n h
    rw [closed n] at write
    cases write
  | post =>
    obtain ⟨e, he, -⟩ := held.postHeld k h
    obtain ⟨o, owner, -⟩ := operations.retiringUnderWay e he (retiring e he)
    rw [unowned] at owner
    cases owner
  | jobSource i =>
    obtain ⟨x, buffer, -⟩ := held.sourceHeld k i h
    rw [engine] at buffer
    simp [Engine.reset] at buffer
  | jobDest =>
    obtain ⟨d, dest, -⟩ := held.destHeld k h
    rw [engine] at dest
    cases dest
  | discard =>
    obtain ⟨b, o, owner, -⟩ := held.discardHeld k h
    rw [unowned] at owner
    cases owner

/-- Settles O36: by whether a bank has an owner. -/
theorem resettingEndsWhenNoBankIsOwned : Obligations.ResettingEndsWhenNoBankIsOwned := by
  unfold Obligations.ResettingEndsWhenNoBankIsOwned
  intro s high resetting
  rw [exec_resettingEnd high]
  refine ⟨fun held operations quiet unowned => freeCount_of_all_free
    (all_free_of_quiet held operations quiet resetting unowned), fun unowned => ?_, fun owned => ?_⟩
  · rw [consequence_some (resettingEnd_of_unowned resetting unowned)]
    rfl
  · rw [consequence_none (resettingEnd_of_owned owned)]

/-! ### Timers (R63, R117) -/

theorem exec_lingerExpiry (high : s.resetLow = false) (n : StreamId) :
    exec (.lingerExpiry n) s = .next (lingerExpiry n s) := congrArg _ (whileRunning_high high)

/-- Settles O37: by the boundaries left. -/
theorem lingerExpiryPostsTheAssembly : Obligations.LingerExpiryPostsTheAssembly := by
  unfold Obligations.LingerExpiryPostsTheAssembly
  intro n w s high write
  rw [exec_lingerExpiry high]
  refine ⟨fun a runOut held => ?_, fun left => ?_⟩
  · simp only [lingerExpiry, write, runOut, if_true, State.lingerPost, held]
  · simp only [lingerExpiry, write, left, if_false]

theorem exec_rowAgeExpiry (high : s.resetLow = false) (b : BankId) :
    exec (.rowAgeExpiry b) s = .next (rowAgeExpiry b s) := congrArg _ (whileRunning_high high)

theorem addDue_of_idle {st : BankStep} (idle : s.seq.hasDue b = false) :
    s.addDue b st = s.withSeq { s.seq with due := s.seq.due ++ [(b, st)] } := by
  simp only [State.addDue, idle, Bool.false_eq_true, if_false]

theorem addDue_of_waiting {st : BankStep} (waits : s.seq.hasDue b = true) : s.addDue b st = s := if_pos waits

/-- Settles O38: by whether the bank has an owner. -/
theorem rowAgeExpiryClosesOrMarks : Obligations.RowAgeExpiryClosesOrMarks := by
  unfold Obligations.RowAgeExpiryClosesOrMarks
  intro b s high runOut
  rw [exec_rowAgeExpiry high, rowAgeExpiry, if_pos runOut]
  refine ⟨fun unowned opened idle => ?_, fun o owner => ?_⟩
  · have free : s.seq.banks[b].owned = false := congrArg Option.isSome unowned
    rw [free, if_neg Bool.false_ne_true, State.ageClose, if_pos opened, addDue_of_idle (by exact idle)]
    rfl
  · have owned : s.seq.banks[b].owned = true := congrArg Option.isSome owner
    rw [owned, if_pos rfl]
    rfl

/-! ### Renewals (R133 to R137) -/

theorem exec_renewalIntervalExpiry (high : s.resetLow = false) :
    exec .renewalIntervalExpiry s = .next (renewalIntervalExpiry s) := congrArg _ (whileRunning_high high)

theorem exec_opportunisticRenewal (high : s.resetLow = false) :
    exec .opportunisticRenewal s = .next (consequence opportunisticRenewal s) := congrArg _ (whileRunning_high high)

theorem urgent_iff {r : Renewal} : r.urgent = true ↔ 6 ≤ r.debt := decide_eq_true_iff

theorem urgentStart_iff : s.urgentStart = true ↔
    s.seq.memory = .started ∧ 6 ≤ s.renewal.debt ∧ s.renewal.active = false := by
  simp [State.urgentStart, urgent_iff, and_assoc]

theorem anyRequest_eq_false_iff : s.anyRequest = false ↔ ∀ p : Fin 10, s.requestAt p = none := by
  simp [State.anyRequest, List.any_eq_false, Option.eq_none_iff_forall_ne_some]

theorem opportunisticStart_iff : s.opportunisticStart = true ↔
    s.seq.memory = .started ∧ 1 ≤ s.renewal.debt ∧ s.renewal.active = false ∧ s.seq.wide = .none ∧
      (∀ b : BankId, s.seq.banks[b].owner = none) ∧ ∀ p : Fin 10, s.requestAt p = none := by
  rw [← anyOwner_eq_false_iff, ← anyRequest_eq_false_iff]
  simp [State.opportunisticStart, and_assoc]

theorem renewalStart_eq_none_iff : renewalStart s = none ↔ s.urgentStart = false ∧ s.opportunisticStart = false := by
  simp [renewalStart]

/-- While the debt is urgent no request is eligible (R109). -/
theorem eligible_of_urgent (debt : 6 ≤ s.renewal.debt) (q : Request) : s.eligible q = false := by
  have urgent : s.renewal.urgent = true := decide_eq_true debt
  simp [State.eligible, State.grantsOpen, urgent]

theorem eligibleAt_eq_none_iff {p : Fin 10} : s.eligibleAt p = none ↔
    ∀ q, s.requestAt p = some q → s.eligible q = false := by
  unfold State.eligibleAt
  split
  · next q h => simp [h]
  · next h => simp [h]

/-- With no request eligible there is nothing to grant (R110). -/
theorem requestGrant_of_none (none : ∀ p q, s.requestAt p = some q → s.eligible q = false) :
    requestGrant s = Option.none := by
  have nothing (p : Fin 10) : s.eligibleAt p = Option.none := eligibleAt_eq_none_iff.mpr (none p)
  have search := (cyclic_findSome_none s.seq.grantPos s.eligibleAt).mpr nothing
  simp only [requestGrant, State.nextRequestGrant, State.priorityGrant, nothing, search]

/-- The action of a list that answers nothing has nothing to do. -/
theorem action_none_of_settled (settled : settleStep s = none) {a : State → Option State} (ha : a ∈ settleActions) :
    a s = none := List.findSome?_eq_none_iff.mp settled a ha

/-- Settles O39: the debt by its cap, and the start of a renewal by its two sets of conditions. -/
theorem renewalsAreOwedAndStart : Obligations.RenewalsAreOwedAndStart := by
  unfold Obligations.RenewalsAreOwedAndStart
  refine ⟨fun s high runOut => ⟨fun below => ?_, fun capped => ?_⟩, fun s => ?_⟩
  · rw [exec_renewalIntervalExpiry high, renewalIntervalExpiry, if_pos runOut, State.oweRenewal, if_pos (by exact below)]
    rfl
  · rw [exec_renewalIntervalExpiry high, renewalIntervalExpiry, if_pos runOut, State.oweRenewal,
      if_neg (by exact Nat.not_lt.mpr capped)]
    rfl
  · intro quiet urgent
    have quiet_iff : s.opportunisticStart = true ↔ quiet := opportunisticStart_iff
    have urgent_iff : s.urgentStart = true ↔ urgent := urgentStart_iff
    have idle (notUrgent : ¬ urgent) (notQuiet : ¬ quiet) : renewalStart s = none :=
      renewalStart_eq_none_iff.mpr ⟨Bool.eq_false_iff.mpr (mt urgent_iff.mp notUrgent),
        Bool.eq_false_iff.mpr (mt quiet_iff.mp notQuiet)⟩
    refine ⟨fun high h => ?_, fun high h => ?_, fun starts => ?_, fun h g => idle g h, fun settled => ?_, fun debt => ?_⟩
    · rw [exec_opportunisticRenewal high, consequence_some (if_pos (quiet_iff.mpr h))]
      rfl
    · rw [exec_opportunisticRenewal high, consequence_none (if_neg (mt quiet_iff.mp h))]
    · refine if_pos (Bool.or_eq_true_iff.mpr ?_)
      exact starts.symm.imp urgent_iff.mpr quiet_iff.mpr
    · have none : renewalStart s = none := action_none_of_settled settled (by simp [settleActions])
      rw [renewalStart_eq_none_iff, ← Bool.not_eq_true, ← Bool.not_eq_true, urgent_iff, quiet_iff] at none
      exact none
    · exact requestGrant_of_none fun _ q _ => eligible_of_urgent debt q

/-! ### Start-up (R127 to R132) -/

theorem exec_memStart (take : TakesCommand s) :
    exec .memStart s = .next (runMemStart s.port.param (answeredWrite s)) :=
  exec_command (i := .memStart) (code := 0x21#8) rfl take

theorem exec_settleEnd (high : s.resetLow = false) : exec .settleEnd s = .next (settleEnd s) :=
  congrArg _ (whileRunning_high high)

theorem exec_closeSettleEnd (high : s.resetLow = false) (which : SettleOf) :
    exec (.closeSettleEnd which) s = .next (closeSettleEnd which s) := congrArg _ (whileRunning_high high)

theorem exec_renewalComplete (high : s.resetLow = false) : exec .renewalComplete s = .next (renewalComplete s) :=
  congrArg _ (whileRunning_high high)

theorem exec_optionLoadEnd (high : s.resetLow = false) : exec .optionLoadEnd s = .next (optionLoadEnd s) :=
  congrArg _ (whileRunning_high high)

theorem afterClose_eq (u : StartUp) : u.afterClose = if u = .closeSettling then .renewCalled false else u := by
  cases u <;> rfl

theorem afterRenew_of_other {u : StartUp} (other : ∀ second, u ≠ .renewRunning second) : u.afterRenew = u := by
  cases u with
  | renewRunning second => exact (other second rfl).elim
  | _ => rfl

/-- The end of a renew duration, of a renewal or not. -/
theorem renewalComplete_renewing (renewing : s.seq.wide = .renewing) : renewalComplete s = State.finish s
    (((s.mapSeq fun q => { q with wide := .none, wideLeft := 0 }).withStartUp s.startUp.afterRenew).completeRenewal).idlePins :=
  if_pos renewing

/-- Settles O32: the events of the sequence one after the other. -/
theorem startUpPassesThroughItsPhases : Obligations.StartUpPassesThroughItsPhases := by
  unfold Obligations.StartUpPassesThroughItsPhases
  intro s
  refine ⟨fun take started => ?_, fun take unstarted => ?_, fun high settled => ?_, fun high left running => ?_,
    fun high renewing inactive => ?_, fun high loading phase => ?_, fun high loading other => ?_, ?_⟩
  · rw [exec_memStart take]
    exact congrArg _ (if_pos started)
  · rw [exec_memStart take]
    exact congrArg _ (if_neg (not_not.mpr unstarted))
  · rw [exec_settleEnd high]
    exact congrArg _ (if_pos settled)
  · have runs : s.startClose.isSome = true := by rw [running]; rfl
    rw [exec_closeSettleEnd high, closeSettleEnd, if_pos runs, State.endStartClose, afterClose_eq]
    rfl
  · rw [exec_renewalComplete high, renewalComplete_renewing renewing]
    have noRenewal : ((s.mapSeq fun q => { q with wide := .none, wideLeft := 0 }).withStartUp
        s.startUp.afterRenew).renewal.active = false := inactive
    rw [State.completeRenewal, noRenewal, if_neg Bool.false_ne_true]
    exact ⟨_, rfl, rfl, fun phase => congrArg StartUp.afterRenew phase, fun phase => congrArg StartUp.afterRenew phase,
      afterRenew_of_other⟩
  · rw [exec_optionLoadEnd high, optionLoadEnd, if_pos loading, if_pos phase]
    simp only [State.memoryStarted, State.endLoad, complete_eq, State.mapSeq, State.withSeq, State.idlePins,
      State.withPins, State.withStartUp, State.withRenewal]
  · rw [exec_optionLoadEnd high, optionLoadEnd, if_pos loading, if_neg other]
    rfl
  · simp [State.mcke, Option.isSome_iff_ne_none, or_assoc]

/-! ### Addresses (R99) -/

/-- A field of a 24-bit address, as a quotient. -/
theorem extract_toNat {a : Nat} (small : a < 16777216) (start len : Nat) :
    ((BitVec.ofNat 24 a).extractLsb' start len).toNat = a / 2 ^ start % 2 ^ len := by
  rw [BitVec.extractLsb'_toNat, BitVec.toNat_ofNat, Nat.mod_eq_of_lt small, Nat.shiftRight_eq_div_pow]

/-- Settles O40, field by field. -/
theorem addressDivision : Obligations.AddressDivision := by
  unfold Obligations.AddressDivision
  intro a small
  refine ⟨?_, ?_, ?_, ?_, ?_, ?_, fun rows fitted below => ?_, fun c small' => ?_⟩
  · rw [extract_toNat small]
    simp [offsetOf]
  · rw [extract_toNat small]
    simp [bankOf]
  · rw [extract_toNat small]
    simp [lineInRow]
  · rw [extract_toNat small, rowOf]
    omega
  · simp only [lineOf, offsetOf]
    omega
  · simp only [bankOf]
    omega
  · rw [rowOf]
    omega
  · simp only [← BitVec.toNat_inj, extract_toNat small, extract_toNat small', Fin.ext_iff, bankOf, rowOf]
    omega

end Sys2Proof.Proofs.Control

/-! PROOFS. The /RESET pin (R83, R121, R187): the state right after reset, the fall with its cut-off stores, and the
rise; and that a part in which nothing is held or under way meets every law. -/

namespace Sys2Proof.Proofs.PinReset

open Sys2Proof Sys2Proof.Machine Sys2Proof.Safety Sys2Proof.Laws
open Sys2Proof.Proofs.Events Sys2Proof.Proofs.LinePool

variable {s : State}

/-! ### A part that holds nothing -/

/-- Nothing is held and nothing is under way: every stream CLOSED, no post, the Move Engine as reset, no claim, every
bank as reset, every slot FREE. -/
structure Vacant (s : State) : Prop where
  closed : ∀ n : StreamId, s.streams[n] = .closed
  noPost : s.post.entries = []
  engine : s.engine = Engine.reset
  noClaim : ∀ c : Fin 9, s.pool.claims[c] = none
  banks : ∀ b : BankId, s.seq.banks[b] = Bank.reset
  free : ∀ k : SlotId, s.pool.slots[k].owner = .free

namespace Vacant

variable (vacant : Vacant s)
include vacant

theorem not_read {n : StreamId} {r : ReadStream} (h : s.streams[n] = .read r) : False := by
  rw [vacant.closed n] at h
  cases h

theorem not_write {n : StreamId} {w : WriteStream} (h : s.streams[n] = .write w) : False := by
  rw [vacant.closed n] at h
  cases h

theorem not_buffer {k : Fin 2} {x : SourceBuffer} (h : s.engine.buffers[k] = some x) : False := by
  rw [vacant.engine] at h
  simp [Engine.reset] at h

theorem not_dest {d : DestLine} (h : s.engine.dest = some d) : False := by
  rw [vacant.engine] at h
  cases h

theorem not_owner {b : BankId} {o : OwnerRecord} (h : s.seq.banks[b].owner = some o) : False := by
  rw [vacant.banks b] at h
  cases h

theorem not_post {e : PostEntry} (h : e ∈ s.post.entries) : False := by
  rw [vacant.noPost] at h
  cases h

theorem not_claim {c : Fin 9} {x : Claim} (h : s.pool.claims[c] = some x) : False := by
  rw [vacant.noClaim c] at h
  cases h

theorem not_owned {k : SlotId} {o : Owner} (h : s.pool.slots[k].owner = o) (owned : o ≠ .free) : False :=
  owned (h.symm.trans (vacant.free k))

theorem slotsLawful : SlotsLawful s where
  readOwned _ _ _ h := (vacant.not_read h).elim
  readApart _ _ h := (vacant.not_read h).elim
  assemblyOwned _ _ _ h := (vacant.not_write h).elim
  postOwned _ h := (vacant.not_post h).elim
  postApart := by
    rw [vacant.noPost]
    exact List.nodup_nil
  sourceOwned _ _ h := (vacant.not_buffer h).elim
  destOwned _ h := (vacant.not_dest h).elim
  discardOwned _ _ h := (vacant.not_owner h).elim
  discardApart _ _ _ _ h := (vacant.not_owner h).elim

theorem slotsHeld : SlotsHeld s where
  readHeld _ _ h := (vacant.not_owned h nofun).elim
  assemblyHeld _ _ h := (vacant.not_owned h nofun).elim
  postHeld _ h := (vacant.not_owned h nofun).elim
  sourceHeld _ _ h := (vacant.not_owned h nofun).elim
  destHeld _ h := (vacant.not_owned h nofun).elim
  discardHeld _ h := (vacant.not_owned h nofun).elim
  waitsEmpty _ _ h := (vacant.not_write h).elim
  destClaimed _ _ h := (vacant.not_claim h).elim

theorem operationsLawful : OperationsLawful s where
  ownBank _ _ h := (vacant.not_owner h).elim
  fetchServed _ _ h := (vacant.not_owner h).elim
  storeServed _ _ h := (vacant.not_owner h).elim
  entryUnderWay _ _ _ h := (vacant.not_read h).elim
  bufferUnderWay _ _ h := (vacant.not_buffer h).elim
  retiringUnderWay _ h := (vacant.not_post h).elim
  writingStores b h := by
    rw [vacant.banks b] at h
    rcases h with h | h <;> cases h
  sourceClaimed _ _ _ h := (vacant.not_claim h).elim

theorem banksLawful : BanksLawful s where
  busyOwned b h := by
    rw [vacant.banks b] at h
    rcases h with h | h | h | h <;> cases h
  burstHoldsBus b h := by
    rw [vacant.banks b] at h
    rcases h with h | h <;> cases h
  wideAlone _ b := by
    rw [vacant.banks b]
    exact ⟨rfl, rfl⟩
  notStarted _ b := by
    rw [vacant.banks b]
    exact ⟨rfl, rfl⟩

theorem queuesWithinCapacity : QueuesWithinCapacity s := by
  rw [QueuesWithinCapacity, vacant.noPost, vacant.engine]
  exact ⟨Nat.zero_le _, Nat.zero_le _, Nat.zero_le _⟩

theorem oneWaitingPerLine : OneWaitingPerLine s := fun line => by
  rw [vacant.noPost]
  exact Nat.zero_le _

theorem oneRetiringPerLine : OneRetiringPerLine s := fun line => by
  rw [vacant.noPost]
  exact Nat.zero_le _

theorem readAheadLawful : ReadAheadLawful s := fun n => by
  rw [vacant.closed n]
  trivial

theorem linesAligned : LinesAligned s where
  reads _ _ h := (vacant.not_read h).elim
  assemblies _ _ _ h := (vacant.not_write h).elim
  posts _ h := (vacant.not_post h).elim
  destination _ h := (vacant.not_dest h).elim

theorem coherent (memory : MemoryCanonical s) : Coherent s where
  slots := vacant.slotsLawful
  operations := vacant.operationsLawful
  waiting := vacant.oneWaitingPerLine
  lines := vacant.linesAligned
  memory := memory
  filled _ _ _ h := (vacant.not_read h).elim

end Vacant

/-- The pin-reset values over any FREE slots hold nothing. -/
theorem pinResetValues_vacant {slots : Vector Slot 48} (free : ∀ k : SlotId, slots[k].owner = .free)
    (memory : Memory) (draws : Nat) (queue : List Instr) :
    Vacant ((State.pinResetValues slots memory draws).withPending queue) where
  closed n := by simp [State.pinResetValues]
  noPost := rfl
  engine := rfl
  noClaim c := by simp [State.pinResetValues]
  banks b := by simp [State.pinResetValues, Sequencer.reset]
  free := free

theorem reset_vacant : Vacant State.reset :=
  pinResetValues_vacant (fun k => by simp) [] 0 []

theorem freed_owner (p : Pool) (k : SlotId) : p.freed[k].owner = .free := by simp [Pool.freed]

theorem freed_bytes (p : Pool) (k : SlotId) : p.freed[k].bytes = p.slots[k].bytes := by simp [Pool.freed]

theorem rise_vacant (s : State) : Vacant s.rise := pinResetValues_vacant (freed_owner s.pool) _ _ _

/-! ### Right after reset -/

theorem reset_registerByte (p : Position) :
    State.reset.registerByte p = if p = .poolFree then 48#8 else 0x00#8 := by
  cases p with
  | param i => revert i; decide +kernel
  | result i => revert i; decide +kernel
  | streamEvent n => revert n; decide +kernel
  | streamState n => revert n; decide +kernel
  | data n => rfl
  | unmapped k => rfl
  | _ => decide +kernel

/-- Settles O3: the bytes position by position, and the laws of a part that holds nothing. -/
theorem resetShowsThePinResetColumn : Obligations.ResetShowsThePinResetColumn := by
  unfold Obligations.ResetShowsThePinResetColumn
  exact ⟨reset_registerByte, rfl, rfl, rfl, by decide +kernel, rfl, rfl, rfl, reset_vacant.queuesWithinCapacity,
    reset_vacant.oneWaitingPerLine, reset_vacant.readAheadLawful, reset_vacant.banksLawful, Nat.zero_le _, reset_wf,
    reset_vacant.slotsLawful, reset_vacant.slotsHeld, reset_vacant.operationsLawful, reset_vacant.oneRetiringPerLine,
    reset_vacant.coherent reset_wf, nofun⟩

/-! ### The rise of /RESET (R31, R187) -/

/-- Settles O5. -/
theorem pinResetReleaseGivesResetValues : Obligations.PinResetReleaseGivesResetValues := by
  unfold Obligations.PinResetReleaseGivesResetValues
  refine ⟨by decide, fun s => ⟨fun high => ?_, fun low => ⟨s.rise, exec_pinResetRelease low, rfl, fun k => ⟨?_, ?_⟩,
    freeCount_rise s, (rise_vacant s).noClaim, rfl, rfl, fun b => ?_⟩⟩⟩
  · simp [exec, execPinResetRelease, pinResetRelease, high]
  · exact freed_owner s.pool k
  · exact freed_bytes s.pool k
  · rw [(rise_vacant s).banks b]
    exact ⟨rfl, rfl⟩

/-! ### The fall of /RESET (R83, R121, R187) -/

theorem getLsbD_cutMask {draw : Nat} {mask : ByteMask} {k : Nat} (h : (cutMask draw mask).getLsbD k = true) :
    mask.getLsbD k = true := by
  unfold cutMask at h
  have small : k < 16 := BitVec.lt_of_getLsbD h
  rw [BitVec.getLsbD_ofFnLE] at h
  simp only [small, dif_pos, Bool.and_eq_true] at h
  exact h.1

/-- A bank cut off at the fall writes to the memory at most, and uses up a draw. -/
theorem cutOff_frame (s : State) (r : Bank) : ∃ m d, s.cutOff r = { s with memory := m, draws := d } := by
  unfold State.cutOff
  split <;> exact ⟨_, _, rfl⟩

theorem cutOff_canonical (canonical : MemoryCanonical s) (r : Bank) : MemoryCanonical (s.cutOff r) := by
  unfold State.cutOff
  split
  · exact writeLine_wf _ _ _ canonical
  · exact canonical

/-- A byte that a cut-off store changes is one that it marks, and takes the store's byte. -/
theorem read_cutOff (canonical : MemoryCanonical s) (r : Bank) (a : Nat) :
    Memory.read (s.cutOff r).memory a = Memory.read s.memory a ∨
      ∃ (o : OwnerRecord) (k : Fin 16), r.cutStore = some o ∧ a = o.line + k.val ∧
        o.mask.getLsbD k.val = true ∧ Memory.read (s.cutOff r).memory a = (s.bytesOf o.slot)[k] := by
  unfold State.cutOff
  split
  · next o store =>
    change Memory.read (Memory.writeLine s.memory o.line (cutMask s.draws o.mask) (s.bytesOf o.slot)) a = _ ∨ _
    rw [read_writeLine canonical]
    split_ifs with inside marked
    · refine .inr ⟨o, ⟨a - o.line, by omega⟩, store, by simp only; omega, getLsbD_cutMask marked, ?_⟩
      exact (read_writeLine canonical _ _ _ _).trans ((dif_pos inside).trans (if_pos marked))
    · exact .inl rfl
    · exact .inl rfl
  · exact .inl rfl

/-- What the cut-offs of several banks leave. -/
theorem foldl_cutOff_frame (l : List Bank) (s : State) :
    ∃ m d, l.foldl State.cutOff s = { s with memory := m, draws := d } := by
  induction l generalizing s with
  | nil => exact ⟨_, _, rfl⟩
  | cons r l ih =>
    obtain ⟨m, d, first⟩ := cutOff_frame s r
    obtain ⟨m', d', rest⟩ := ih (s.cutOff r)
    exact ⟨m', d', by rw [List.foldl_cons, rest, first]⟩

/-- What the cut-offs of several banks do to the memory. -/
theorem read_foldl_cutOff (l : List Bank) (s : State) (canonical : MemoryCanonical s) :
    MemoryCanonical (l.foldl State.cutOff s) ∧
    ∀ a, Memory.read (l.foldl State.cutOff s).memory a = Memory.read s.memory a ∨
      ∃ r ∈ l, ∃ (o : OwnerRecord) (k : Fin 16), r.cutStore = some o ∧ a = o.line + k.val ∧
        o.mask.getLsbD k.val = true ∧ Memory.read (l.foldl State.cutOff s).memory a = (s.bytesOf o.slot)[k] := by
  induction l generalizing s with
  | nil => exact ⟨canonical, fun a => .inl rfl⟩
  | cons r l ih =>
    obtain ⟨wf, bytes⟩ := ih (s.cutOff r) (cutOff_canonical canonical r)
    have sameBytes (k : SlotId) : (s.cutOff r).bytesOf k = s.bytesOf k := by
      obtain ⟨m, d, first⟩ := cutOff_frame s r
      rw [first]
      rfl
    refine ⟨wf, fun a => ?_⟩
    rw [List.foldl_cons]
    rcases bytes a with same | ⟨x, hx, o, k, store, address, marked, value⟩
    · rw [same]
      rcases read_cutOff canonical r a with kept | ⟨o, k, store, address, marked, value⟩
      · exact .inl kept
      · exact .inr ⟨r, List.mem_cons_self, o, k, store, address, marked, value⟩
    · exact .inr ⟨x, List.mem_cons_of_mem r hx, o, k, store, address, marked, by rw [value, sameBytes]⟩

/-- The memory after the fall (R83). -/
theorem read_fall (canonical : MemoryCanonical s) (a : Nat) : Memory.read s.fall.memory a = Memory.read s.memory a ∨
    ∃ (b : BankId) (o : OwnerRecord) (k : Fin 16), s.seq.banks[b].cutStore = some o ∧ a = o.line + k.val ∧
      o.mask.getLsbD k.val = true ∧ Memory.read s.fall.memory a = (s.bytesOf o.slot)[k] := by
  obtain ⟨-, bytes⟩ := read_foldl_cutOff s.seq.banks.toList s canonical
  rcases bytes a with same | ⟨r, hr, o, k, store, rest⟩
  · exact .inl same
  · obtain ⟨i, hi, rfl⟩ := List.mem_iff_getElem.mp hr
    exact .inr ⟨⟨i, by simpa using hi⟩, o, k, by simpa using store, rest⟩

theorem fall_canonical (canonical : MemoryCanonical s) : MemoryCanonical s.fall :=
  (read_foldl_cutOff s.seq.banks.toList s canonical).1

/-- The fall changes the pins' side alone, the memory and the draw counter beside it (R121, R187). -/
theorem fall_frame (s : State) : ∃ m d, s.fall = { s with
    memory := m, draws := d, resetLow := true, bus := .idle, events := Events.reset
    streamFlags := Vector.replicate 8 StreamFlags.none, pins := MemoryPins.reset } := by
  obtain ⟨m, d, cut⟩ := foldl_cutOff_frame s.seq.banks.toList s
  exact ⟨m, d, by rw [State.fall, cut]⟩

/-- Settles O4: the fall, and with it what the cut-off stores may have written. -/
theorem pinResetCutsOperationsOff : Obligations.PinResetCutsOperationsOff := by
  unfold Obligations.PinResetCutsOperationsOff
  intro s
  refine ⟨fun low => ?_, fun low => if_pos low, fun high canonical => ?_⟩
  · simp [exec, execPinReset, pinReset, low]
  · have queue : s.fall.pending = s.pending := by
      obtain ⟨m, d, frame⟩ := fall_frame s
      rw [frame]
    exact ⟨s.fall, exec_pinReset high, rfl, rfl, rfl, rfl, rfl, rfl, rfl, rfl, rfl, rfl, queue, read_fall canonical⟩

end Sys2Proof.Proofs.PinReset

/-! PROOFS. The steps on the memory pins (R104 to R106, R119, R129, R130) and the ends of the intervals counted in MCLK
(R107, R113 to R115, R79, R135). -/

namespace Sys2Proof.Proofs.Sequencing

open Sys2Proof Sys2Proof.Machine Sys2Proof.Safety Sys2Proof.Laws
open Sys2Proof.Proofs.Control

variable {s : State} {b : BankId} {o : OwnerRecord}

/-! ### The steps of one bank (R104 to R106) -/

theorem headDue_of_closeAllReady (ready : s.closeAllReady = true) (b : BankId) (st : BankStep) :
    s.headDue b st = false := by
  simp [State.headDue, ready]

theorem headDue_of_due {rest : List (BankId × BankStep)} {st : BankStep} (idle : s.closeAllReady = false)
    (due : s.seq.due = (b, st) :: rest) : s.headDue b st = true := by
  simp [State.headDue, idle, due]

theorem openRowFor_of_closeAllReady (ready : s.closeAllReady = true) (b : BankId) : s.openRowFor b = none := by
  simp [State.openRowFor, headDue_of_closeAllReady ready]

theorem closeRowReady_of_closeAllReady (ready : s.closeAllReady = true) (b : BankId) : s.closeRowReady b = false := by
  simp [State.closeRowReady, headDue_of_closeAllReady ready]

theorem burstFor_of_closeAllReady (ready : s.closeAllReady = true) (b : BankId) (op : MemOp) :
    s.burstFor b op = none := by
  unfold State.burstFor
  split
  · simp [headDue_of_closeAllReady ready]
  · rfl

/-- While /RESET is high the row of a bank step runs that step. -/
theorem exec_bankStep (high : s.resetLow = false) (b : BankId) :
    exec (.openRow b) s = .next (stepOpenRow b s) ∧ exec (.closeRow b) s = .next (stepCloseRow b s) ∧
      exec (.readBurst b) s = .next (stepReadBurst b s) ∧ exec (.writeBurst b) s = .next (stepWriteBurst b s) :=
  ⟨congrArg _ (whileRunning_high high), congrArg _ (whileRunning_high high), congrArg _ (whileRunning_high high),
    congrArg _ (whileRunning_high high)⟩

/-- A step that changes nothing changes nothing while /RESET is low either. -/
theorem whileRunning_same {f : State → State} (same : f s = s) : whileRunning f s = s := by
  unfold whileRunning
  split
  · rfl
  · exact same

theorem burstFor_of_ready {rest : List (BankId × BankStep)} {more : List BankId} (idle : s.closeAllReady = false)
    (due : s.seq.due = (b, .burst) :: rest) (opened : s.seq.banks[b].state = .opened)
    (owner : s.seq.banks[b].owner = some o) (row : s.seq.banks[b].openRow = some (rowOf o.line))
    (order : s.seq.burstOrder = b :: more) (bus : s.seq.dataBus = some b) : s.burstFor b o.op = some o := by
  unfold State.burstFor
  rw [owner]
  simp only [headDue_of_due idle due, opened, row, order, bus, List.head?_cons, decide_true, Bool.and_self, if_true]

/-- Settles O41: the four steps, each at the head of those that wait. -/
theorem bankStepsDriveThePins : Obligations.BankStepsDriveThePins := by
  unfold Obligations.BankStepsDriveThePins
  refine ⟨fun b i s ready row => ?_, fun b rest s high idle => ⟨fun o due closed started owner => ?_,
    fun due opened => ?_, fun o more due opened owner row order bus => ⟨fun fetch => ?_, fun store => ?_⟩⟩⟩
  · rcases row with rfl | rfl | rfl | rfl
    · refine congrArg _ (whileRunning_same ?_)
      simp only [stepOpenRow, openRowFor_of_closeAllReady ready]
    · refine congrArg _ (whileRunning_same ?_)
      simp only [stepCloseRow, closeRowReady_of_closeAllReady ready, Bool.false_eq_true, if_false]
    · refine congrArg _ (whileRunning_same ?_)
      simp only [stepReadBurst, burstFor_of_closeAllReady ready]
    · refine congrArg _ (whileRunning_same ?_)
      simp only [stepWriteBurst, burstFor_of_closeAllReady ready]
  · have ready : s.openRowFor b = some o := by
      simp only [State.openRowFor, headDue_of_due idle due, closed, started, decide_true, Bool.and_self, if_true, owner]
    rw [(exec_bankStep high b).1, stepOpenRow, ready]
    simp only [State.issueOpenRow, State.drive, State.popDue, State.setBank, State.mapSeq, State.withSeq, State.withPins,
      due, List.tail_cons]
    rfl
  · have ready : s.closeRowReady b = true := by
      simp only [State.closeRowReady, headDue_of_due idle due, opened, decide_true, Bool.and_self]
    rw [(exec_bankStep high b).2.1, stepCloseRow, if_pos ready]
    simp only [State.issueCloseRow, State.drive, State.popDue, State.setBank, State.mapSeq, State.withSeq, State.withPins,
      due, List.tail_cons]
    rfl
  · have ready := fetch ▸ burstFor_of_ready idle due opened owner row order bus
    rw [(exec_bankStep high b).2.2.1, stepReadBurst, ready]
    simp only [State.issueReadBurst, State.drive, State.popDue, State.setBank, State.mapSeq, State.withSeq,
      State.withPins, due, order, List.tail_cons]
    rfl
  · have ready := store ▸ burstFor_of_ready idle due opened owner row order bus
    rw [(exec_bankStep high b).2.2.2, stepWriteBurst, ready]
    simp only [State.issueWriteBurst, State.popDue, State.setBank, State.mapSeq, State.withSeq,
      State.withPins, due, order, List.tail_cons]
    rfl

/-! ### The memory-wide steps (R105, R106, R119, R128 to R130) -/

theorem startCloseReady_iff : s.startCloseReady = true ↔ s.seq.memory = .starting ∧ s.startUp = .closeCalled := by
  simp [State.startCloseReady]

theorem noneDue_iff {q : Sequencer} : q.noneDue = true ↔ q.due = [] := List.isEmpty_iff

theorem renewalCallsCloseAll_iff : s.renewalCallsCloseAll = true ↔
    s.renewal.active = true ∧ s.seq.memory = .started ∧ s.seq.wide = .none := by
  simp [State.renewalCallsCloseAll, and_assoc]

theorem resetCloseAllTurn_iff {q : Sequencer} : q.resetCloseAllTurn = true ↔
    ∃ ahead, q.resetCloseAll = some ahead ∧ (ahead = 0 ∨ q.due = []) := by
  unfold Sequencer.resetCloseAllTurn
  split
  · next ahead h => simp [h, noneDue_iff]
  · next h => simp [h]

/-- The turn of a CLOSE ALL: a renewal's after every step due, soft reset's after those before it (R106, R138). -/
theorem closeAllTurn_iff : s.closeAllTurn = true ↔
    ((s.renewal.active = true ∧ s.seq.memory = .started ∧ s.seq.wide = .none) ∧ s.seq.due = []) ∨
      (¬ (s.renewal.active = true ∧ s.seq.memory = .started ∧ s.seq.wide = .none) ∧
        ∃ ahead, s.seq.resetCloseAll = some ahead ∧ (ahead = 0 ∨ s.seq.due = [])) := by
  rw [← renewalCallsCloseAll_iff, ← resetCloseAllTurn_iff, ← noneDue_iff]
  unfold State.closeAllTurn
  split <;> simp [*]

theorem owned_eq_false_iff {r : Bank} : r.owned = false ↔ r.owner = none := by
  simp [Bank.owned]

theorem closable_iff {q : Sequencer} : q.closable = true ↔
    (∀ b : BankId, q.banks[b].state = .closed ∨ (q.banks[b].state = .opened ∧ q.banks[b].owner = none)) ∧
      ∃ b : BankId, q.banks[b].state = .opened := by
  rw [Sequencer.closable, Bool.and_eq_true, banks_all, banks_any]
  simp only [Bool.or_eq_true, Bool.and_eq_true, decide_eq_true_eq, Bool.not_eq_true', owned_eq_false_iff]

theorem closeAllReady_iff : s.closeAllReady = true ↔ s.closeAllTurn = true ∧ s.seq.closable = true := by
  rw [State.closeAllReady, Bool.and_eq_true]

theorem renewAllCalled_iff : s.renewAllCalled = true ↔
    ((∃ second, s.startUp = .renewCalled second) ∧ s.seq.memory = .starting) ∨
      (s.startUp = .none ∧ s.renewal.active = true ∧ s.seq.memory = .started) := by
  unfold State.renewAllCalled
  split <;> simp [*]

theorem renewAllReady_iff : s.renewAllReady = true ↔
    (((∃ second, s.startUp = .renewCalled second) ∧ s.seq.memory = .starting) ∨
      (s.startUp = .none ∧ s.renewal.active = true ∧ s.seq.memory = .started)) ∧
    (∀ b : BankId, s.seq.banks[b].state = .closed ∧ s.seq.banks[b].owner = none) ∧ s.seq.wide = .none ∧
      s.seq.due = [] := by
  rw [← renewAllCalled_iff, forall_and, ← allClosed_iff, ← anyOwner_eq_false_iff, ← noneDue_iff]
  simp [State.renewAllReady, and_assoc]

theorem loadOptionsReady_iff : s.loadOptionsReady = true ↔ s.startUp = .loadCalled ∧ s.seq.memory = .starting ∧
    (∀ b : BankId, s.seq.banks[b].state = .closed) ∧ s.seq.wide = .none ∧ s.seq.due = [] := by
  rw [← allClosed_iff, ← noneDue_iff]
  simp [State.loadOptionsReady, and_assoc]

theorem exec_wideStep (high : s.resetLow = false) :
    exec .closeAll s = .next (stepCloseAll s) ∧ exec .renewAll s = .next (stepRenewAll s) ∧
      exec .loadOptions s = .next (stepLoadOptions s) :=
  ⟨congrArg _ (whileRunning_high high), congrArg _ (whileRunning_high high), congrArg _ (whileRunning_high high)⟩

theorem closeAll_opened {r : Bank} (opened : r.state = .opened) (settle : Nat) : r.closeAll settle = r.closing settle :=
  if_pos opened

theorem closeAll_other {r : Bank} (other : r.state ≠ .opened) (settle : Nat) : r.closeAll settle = r := if_neg other

/-- The option word for a read latency of 2 or 3 (R130). -/
theorem optionWord_fields {t : TimingSet} (latency : t.readLatency = 2 ∨ t.readLatency = 3) :
    (t.optionWord.extractLsb' 0 2).toNat = t.readLatency ∧ t.optionWord.getLsbD 2 = false ∧
      (t.optionWord.extractLsb' 3 3).toNat = 3 ∧ (t.optionWord.extractLsb' 6 6).toNat = 0 := by
  unfold TimingSet.optionWord
  rcases latency with h | h <;> rw [h] <;> decide

/-- Settles O42: the conditions of the steps, and each step's effect. -/
theorem wideStepsDriveThePins : Obligations.WideStepsDriveThePins := by
  unfold Obligations.WideStepsDriveThePins
  refine ⟨fun s => ⟨startCloseReady_iff, ?_, renewAllReady_iff, loadOptionsReady_iff, fun noStart noClose => ?_,
    fun notReady => ?_, fun notReady => ?_⟩, fun s high => ⟨fun ready => ?_, fun noStart ready => ?_, fun ready => ?_,
    fun ready latency => ?_⟩⟩
  · rw [closeAllReady_iff, closeAllTurn_iff, closable_iff]
  · refine congrArg _ (whileRunning_same ?_)
    simp only [stepCloseAll, noStart, noClose, Bool.false_eq_true, if_false]
  · exact congrArg _ (whileRunning_same (if_neg (Bool.not_eq_true _ ▸ notReady)))
  · exact congrArg _ (whileRunning_same (if_neg (Bool.not_eq_true _ ▸ notReady)))
  · rw [(exec_wideStep high).1, stepCloseAll, if_pos ready]
    rfl
  · have issued : stepCloseAll s = s.issueCloseAll := by
      simp only [stepCloseAll, noStart, ready, Bool.false_eq_true, if_false, if_true]
    rw [(exec_wideStep high).1, issued]
    refine ⟨_, rfl, rfl, fun b => ⟨fun opened => ?_, fun other => ?_⟩⟩
    · have closed := closeAll_opened opened s.timing.closeSettle
      simpa [State.issueCloseAll, State.mapSeq, State.withSeq, State.drive, State.withPins, Bank.closing] using closed
    · have kept := closeAll_other other s.timing.closeSettle
      simpa [State.issueCloseAll, State.mapSeq, State.withSeq, State.drive, State.withPins] using kept
  · rw [(exec_wideStep high).2.1, stepRenewAll, if_pos ready]
    exact ⟨_, rfl, rfl, fun second called => congrArg StartUp.renewIssued called, fun none => congrArg StartUp.renewIssued none⟩
  · rw [(exec_wideStep high).2.2, stepLoadOptions, if_pos ready]
    exact ⟨_, rfl, rfl, optionWord_fields latency⟩

/-! ### The ends of the settles, of write data and of a renewal (R107, R114, R115, R135) -/

theorem exec_openSettleEnd (high : s.resetLow = false) (b : BankId) :
    exec (.openSettleEnd b) s = .next (openSettleEnd b s) := congrArg _ (whileRunning_high high)

theorem exec_writeDataEnd (high : s.resetLow = false) (b : BankId) :
    exec (.writeDataEnd b) s = .next (writeDataEnd b s) := congrArg _ (whileRunning_high high)

theorem joinBurst_new {q : Sequencer} (new : b ∉ q.burstOrder) :
    q.joinBurst b = { q with burstOrder := q.burstOrder ++ [b] } := by
  simp [Sequencer.joinBurst, new]

theorem joinBurst_frame (q : Sequencer) (b : BankId) : q.joinBurst b = { q with burstOrder := (q.joinBurst b).burstOrder } := by
  unfold Sequencer.joinBurst
  split <;> rfl

theorem owned_of_owner {r : Bank} (owner : r.owner = some o) : r.owned = true := congrArg Option.isSome owner

/-- Settles O43: each end of an interval, and the release by what calls for CLOSE ROW. -/
theorem intervalEndsMoveTheBanks : Obligations.IntervalEndsMoveTheBanks := by
  unfold Obligations.IntervalEndsMoveTheBanks
  refine ⟨fun b s high => ⟨fun opening => ?_, fun closing => ?_, fun writing => ?_, fun renewing active phase => ?_⟩,
    fun b s idle => ⟨fun closes => ?_, fun keeps policy => ?_⟩⟩
  · rw [exec_openSettleEnd high, openSettleEnd, if_pos opening, State.endOpenSettle]
    cases owner : s.seq.banks[b].owner with
    | none =>
      have unowned := owned_eq_false_iff.mpr owner
      rw [unowned]
      exact ⟨_, rfl, rfl, nofun, fun _ => rfl⟩
    | some o =>
      rw [owned_of_owner owner]
      refine ⟨_, rfl, ?_, fun _ _ new => ?_, nofun⟩
      · simp only [if_true, State.mapSeq, State.withSeq]
        rw [joinBurst_frame]
        rfl
      · simp only [if_true, State.mapSeq, State.withSeq]
        rw [joinBurst_new (by exact new)]
        rfl
  · rw [exec_closeSettleEnd high, closeSettleEnd, if_pos closing, State.endCloseSettle]
    cases owner : s.seq.banks[b].owner with
    | none =>
      have unowned := owned_eq_false_iff.mpr owner
      rw [unowned]
      exact ⟨_, rfl, rfl, nofun, fun _ => rfl⟩
    | some o =>
      rw [owned_of_owner owner, if_pos rfl]
      refine ⟨_, rfl, ?_, fun _ _ idle => ?_, nofun⟩
      · rcases addDue_cases (s.setBank b { s.seq.banks[b] with state := .closed, left := 0 }).idlePins b .openRow with
          ⟨_, h⟩ | ⟨_, h⟩ <;> rw [h] <;> rfl
      · rw [addDue_of_idle (by exact idle)]
        rfl
  · rw [exec_writeDataEnd high, writeDataEnd, if_pos writing]
    rfl
  · rw [exec_renewalComplete high, renewalComplete_renewing renewing, phase]
    have running : ((s.mapSeq fun q => { q with wide := .none, wideLeft := 0 }).withStartUp
        StartUp.none.afterRenew).renewal.active = true := active
    rw [State.completeRenewal, if_pos running]
    simp only [State.mapSeq, State.withSeq, State.withStartUp, State.withRenewal, State.idlePins, State.withPins,
      StartUp.afterRenew, ← phase]
  · have due : s.closesAtRelease b = true := by
      rcases closes with h | h <;> simp [State.closesAtRelease, -Fin.getElem_fin, h]
    rw [State.releaseBank, if_pos due, addDue_of_idle (by exact idle)]
    rfl
  · have none : s.closesAtRelease b = false := by
      simp [State.closesAtRelease, -Fin.getElem_fin, keeps, policy]
    rw [State.releaseBank, none, if_neg Bool.false_ne_true]
    rfl

/-! ### Fetch return and store completion (R113, R114, R79) -/

theorem exec_fetchReturn (high : s.resetLow = false) (reading : s.seq.banks[b].state = .reading)
    (owner : s.seq.banks[b].owner = some o) (fetch : o.op = .fetch) : exec (.fetchReturn b) s =
      if o.line < s.timing.fittedSize then .next (s.endFetch b o) else .fault (.beyondFittedSize o.line) := by
  have who : s.readingOwner b = some o := (if_pos reading).trans owner
  simp only [exec, execFetchReturn, high, Bool.false_eq_true, if_false, who, ownerEnds, fetch, ne_eq,
    not_true_eq_false]

theorem exec_storeComplete (high : s.resetLow = false) (recovering : s.seq.banks[b].state = .recovering)
    (owner : s.seq.banks[b].owner = some o) (store : o.op = .store) : exec (.storeComplete b) s =
      if o.line < s.timing.fittedSize then .next (s.endStore b o) else .fault (.beyondFittedSize o.line) := by
  have who : s.recoveringOwner b = some o := (if_pos recovering).trans owner
  simp only [exec, execStoreComplete, high, Bool.false_eq_true, if_false, who, ownerEnds, store, ne_eq,
    not_true_eq_false]

theorem getElem_readLine (m : Memory) (line : Nat) (k : Fin 16) : (Memory.readLine m line)[k] = Memory.read m (line + k.val) := by
  simp [Memory.readLine]

theorem getElem_overlay (base new : Line) (mask : ByteMask) (k : Fin 16) :
    (overlay base new mask)[k] = if mask.getLsbD k.val then new[k] else base[k] := by
  simp [overlay]

/-- Lines that agree byte by byte are the same line. -/
theorem line_ext {l m : Line} (h : ∀ k : Fin 16, l[k] = m[k]) : l = m :=
  Vector.ext fun i hi => h ⟨i, hi⟩

/-- The merged line, byte by byte (R90). -/
theorem getElem_mergeOnReturn (s : State) (line : Nat) (m : Line) (k : Fin 16) : (s.mergeOnReturn line m)[k] =
    match s.post.waitingFor line with
    | some e => if e.mask.getLsbD k.val then (s.bytesOf e.slot)[k] else m[k]
    | none => m[k] := by
  unfold State.mergeOnReturn
  cases s.post.waitingFor line with
  | none => rfl
  | some e => exact getElem_overlay ..

/-- The line that a return hands on (R90, R113). -/
theorem eq_mergedLine {line : Nat} {l : Line}
    (h : ∀ k : Fin 16, l[k] = match s.post.waitingFor line with
      | some e => if e.mask.getLsbD k.val then (s.bytesOf e.slot)[k] else Memory.read s.memory (line + k.val)
      | none => Memory.read s.memory (line + k.val)) :
    l = s.mergeOnReturn line (Memory.readLine s.memory line) :=
  line_ext fun k => by
    rw [h k, getElem_mergeOnReturn, getElem_readLine]

theorem takeReturn_kept (kept : o.discard = false) : s.takeReturn o = s.handOn o := by
  simp only [State.takeReturn, kept, Bool.false_eq_true, if_false]

/-- A stretched read of the stream is answered when the stream is READY (R42, R47). -/
theorem answerWaitingRead_of_read {n : StreamId} {r : ReadStream} (read : s.streams[n] = .read r) :
    s.answerWaitingRead n = if s.bus.waitingRead n = true ∧ r.ready = true then s.deliver n r else s := by
  unfold State.answerWaitingRead
  rw [read]
  by_cases waits : s.bus.waitingRead n = true
  · by_cases ready : r.ready = true <;> simp [waits, ready]
  · simp [waits]

/-- Settles O44: the fault, the line dropped, and the line handed to a read entry or to a source buffer. -/
theorem fetchReturnHandsTheMergedLineOn : Obligations.FetchReturnHandsTheMergedLineOn := by
  unfold Obligations.FetchReturnHandsTheMergedLineOn
  intro b o s high reading owner fetch
  rw [exec_fetchReturn high reading owner fetch]
  refine ⟨fun beyond => if_neg (Nat.not_lt.mpr beyond), fun fitted => ⟨fun u released => ?_, fun discard => if_pos discard,
    fun l bytes => ⟨fun n r filled u kept position read passed handed => ?_, fun kept position => ?_⟩⟩⟩
  · rw [if_pos (by exact fitted), released]
    rfl
  · have below : o.position.val < 8 := by omega
    have same : (⟨o.position.val, below⟩ : StreamId) = n := Fin.ext position
    have returned : s.takeReturn o = u.answerWaitingRead n := by
      rw [takeReturn_kept kept, State.handOn, dif_pos below, same, State.entryReturn, read, handed, passed,
        eq_mergedLine bytes]
      rfl
    have streams : u.streams[n] = .read filled := by
      rw [handed]
      simp [State.setStream]
    have bus : u.bus = s.bus := by rw [handed]; rfl
    rw [returned, answerWaitingRead_of_read streams, bus]
    refine ⟨fun idle => if_neg fun h => ?_, fun waits ready => if_pos ⟨waits, ready⟩⟩
    rcases idle with idle | idle
    · exact Bool.false_ne_true (idle.symm.trans h.1)
    · exact Bool.false_ne_true (idle.symm.trans h.2)
  · have above : ¬ o.position.val < 8 := by omega
    refine ⟨_, rfl, ?_, fun k => ?_⟩
    · rw [takeReturn_kept kept, State.handOn, dif_neg above, eq_mergedLine bytes]
      rfl
    · rw [takeReturn_kept kept, State.handOn, dif_neg above]
      simp [State.bufferReturn, State.mapEngine]
      rfl

theorem reportSync_eq (s : State) (k : SlotId) : s.reportSync k =
    s.withEvents { s.events with syncDone := s.events.syncDone || s.post.lastTaggedStored k } := by
  unfold State.reportSync
  split
  · next h => simp [h, State.mapEvents, Events.setSyncDone]
  · next h => simp [h, State.withEvents]

/-- Settles O45: the store of the line, byte by byte, and the entry's leaving. -/
theorem storeCompletionWritesAndRemoves : Obligations.StoreCompletionWritesAndRemoves := by
  unfold Obligations.StoreCompletionWritesAndRemoves
  intro b o s high recovering owner store canonical
  rw [exec_storeComplete high recovering owner store]
  refine ⟨fun beyond => if_neg (Nat.not_lt.mpr beyond), fun fitted => ?_⟩
  rw [if_pos (by exact fitted)]
  have read := read_writeLine canonical o.line o.mask (s.bytesOf o.slot)
  refine ⟨Memory.writeLine s.memory o.line o.mask (s.bytesOf o.slot),
    ((s.store o).reportSync o.slot).removeStored o.slot, _, rfl, rfl, ?_, ?_, fun k => ?_, fun a outside => ?_⟩
  · rw [reportSync_eq]
    exact writeLine_wf _ _ _ canonical
  · rw [reportSync_eq]
    rfl
  · rw [read, dif_pos ⟨by omega, by omega⟩]
    simp
  · rw [read, dif_neg (by omega)]

end Sys2Proof.Proofs.Sequencing

/-! PROOFS. The grants: the Sequencer's choice among the requests (R108 to R111), and the claims and the grants of the Line
Pool (R23 to R27, R39, R40, R60, R144, R147). -/

namespace Sys2Proof.Proofs.Grants

open Sys2Proof Sys2Proof.Machine Sys2Proof.Safety Sys2Proof.Laws
open Sys2Proof.Proofs.Control Sys2Proof.Proofs.Sequencing Sys2Proof.Proofs.LinePool Sys2Proof.Proofs.MoveEngine

variable {s : State} {n : StreamId}

/-! ### Requests (R108, R109) -/

theorem exec_requestGrant (high : s.resetLow = false) :
    exec .requestGrant s = .next (consequence requestGrant s) := congrArg _ (whileRunning_high high)

theorem eligible_iff (s : State) (q : Request) : s.eligible q = true ↔ s.seq.banks[bankOf q.line].owner = none ∧
    s.seq.memory = .started ∧ s.renewal.debt < 6 ∧ s.renewal.active = false ∧ s.seq.wide = .none := by
  have calm : s.renewal.urgent = false ↔ s.renewal.debt < 6 := by
    rw [← Bool.not_eq_true, urgent_iff, Nat.not_le]
  simp only [State.eligible, State.grantsOpen, Bool.and_eq_true, Bool.not_eq_true', owned_eq_false_iff, calm,
    decide_eq_true_eq, and_assoc]

theorem requestAt_stream {p : Fin 10} (h : p.val = n.val) : s.requestAt p = s.streams[n].request := by
  have below : p.val < 8 := by omega
  simp [State.requestAt, h]

theorem requestAt_post (s : State) : s.requestAt 8 = s.post.request := rfl

theorem requestAt_engine (s : State) : s.requestAt 9 = s.engine.request := rfl

theorem request_read (r : ReadStream) : (Stream.read r).request =
    (r.queue.find? fun e => e.state = .requested).map fun e =>
      { op := .fetch, line := e.line, slot := e.slot, mask := 0#16, priority := false } := by
  unfold Stream.request
  rw [Stream.entries]
  cases r.queue.find? fun e => e.state = .requested <;> rfl

theorem request_of_not_read {c : Stream} (other : ∀ r, c ≠ .read r) : c.request = none := by
  cases c with
  | read r => exact (other r rfl).elim
  | write w => rfl
  | closed => rfl

theorem post_request (q : PostQueue) : q.request =
    (q.entries.find? fun e => e.state = .waiting).map fun e =>
      { op := .store, line := e.line, slot := e.slot, mask := e.mask, priority := decide (16 ≤ q.entries.length) } := by
  unfold PostQueue.request PostQueue.oldestWaiting
  cases q.entries.find? fun e => e.state = .waiting <;> rfl

/-- The two source buffers, buffer 0 first. -/
theorem buffers_list (e : Engine) :
    e.buffers.toList.filterMap id = e.buffers[(0 : Fin 2)].toList ++ e.buffers[(1 : Fin 2)].toList := by
  have two : e.buffers.toList = [e.buffers[0], e.buffers[1]] :=
    List.ext_getElem (by simp) fun i hi hj => by
      have : i < 2 := by simpa using hi
      interval_cases i <;> simp
  rw [two]
  change [e.buffers[0], e.buffers[1]].filterMap id = e.buffers[0].toList ++ e.buffers[1].toList
  generalize e.buffers[0] = first
  generalize e.buffers[1] = second
  cases first <;> cases second <;> rfl

theorem engine_request (e : Engine) : e.request =
    (e.buffers[(0 : Fin 2)].bind SourceBuffer.request).or (e.buffers[(1 : Fin 2)].bind SourceBuffer.request) := by
  rw [Engine.request, buffers_list, List.findSome?_append]
  cases e.buffers[(0 : Fin 2)] <;> cases e.buffers[(1 : Fin 2)] <;> simp

theorem buffer_request_none {x : SourceBuffer} (h : x.state ≠ .requested) : x.request = none := by
  unfold SourceBuffer.request
  split
  · exact if_neg h
  · rfl

theorem buffer_request_some {x : SourceBuffer} {line : Nat} (h : x.state = .requested) (named : x.line = some line) :
    x.request = some { op := .fetch, line := line, slot := x.slot, mask := 0#16, priority := false } := by
  simp only [SourceBuffer.request, named, h, if_true]

theorem bind_request_none {b : Option SourceBuffer} (h : ∀ x, b = some x → x.state ≠ .requested) :
    b.bind SourceBuffer.request = none := by
  cases b with
  | none => rfl
  | some x => exact buffer_request_none (h x rfl)

/-- With no buffer REQUESTED the Move Engine presents no request (R145). -/
theorem engine_request_none {e : Engine}
    (h : ∀ (k : Fin 2) (x : SourceBuffer), e.buffers[k] = some x → x.state ≠ .requested) : e.request = none := by
  rw [engine_request, bind_request_none (h 0), bind_request_none (h 1)]
  rfl

/-- The first REQUESTED buffer presents the request (R145). -/
theorem engine_request_some {e : Engine} {k : Fin 2} {x : SourceBuffer} {line : Nat} (buffer : e.buffers[k] = some x)
    (h : x.state = .requested) (named : x.line = some line)
    (before : ∀ (m : Fin 2) (y : SourceBuffer), m < k → e.buffers[m] = some y → y.state ≠ .requested) :
    e.request = some { op := .fetch, line := line, slot := x.slot, mask := 0#16, priority := false } := by
  have asked : e.buffers[k].bind SourceBuffer.request = some _ :=
    (congrArg (Option.bind · _) buffer).trans (buffer_request_some h named)
  rw [engine_request]
  obtain rfl | rfl : k = 0 ∨ k = 1 := by omega
  · rw [asked, Option.some_or]
  · rw [bind_request_none fun y => before 0 y (by decide), asked, Option.none_or]

/-! ### The choice (R110) -/

theorem eligibleAt_some {p : Fin 10} {q : Request} (presented : s.requestAt p = some q) (eligible : s.eligible q = true) :
    s.eligibleAt p = some (p, q) := by
  simp only [State.eligibleAt, presented, eligible, if_true]

theorem eligibleAt_eq_some {p p' : Fin 10} {q : Request} (h : s.eligibleAt p = some (p', q)) :
    p' = p ∧ s.requestAt p = some q ∧ s.eligible q = true := by
  unfold State.eligibleAt at h
  split at h
  · split at h
    · cases h
      exact ⟨rfl, ‹_›, ‹_›⟩
    · cases h
  · cases h

theorem priorityGrant_none (calm : ∀ q, s.requestAt 8 = some q → s.eligible q = true → q.priority = false) :
    s.priorityGrant = none := by
  unfold State.priorityGrant
  split
  · next p q h =>
    obtain ⟨-, presented, eligible⟩ := eligibleAt_eq_some h
    simp [calm q presented eligible]
  · rfl

theorem requestGrant_some {p : Fin 10} {q : Request} (next : s.nextRequestGrant = some (p, q)) :
    requestGrant s = some (s.grantRequest p q) := by
  simp only [requestGrant, next]

theorem nextRequestGrant_priority {q : Request} (presented : s.requestAt 8 = some q) (priority : q.priority = true)
    (eligible : s.eligible q = true) : s.nextRequestGrant = some (8, q) := by
  have first : s.priorityGrant = some (8, q) := by
    simp only [State.priorityGrant, eligibleAt_some presented eligible, priority, if_true]
  simp only [State.nextRequestGrant, first]

/-- With no eligible request of priority the first eligible one in turn is granted (R110, step 2). -/
theorem nextRequestGrant_turn {p : Fin 10} {q : Request} (presented : s.requestAt p = some q)
    (eligible : s.eligible q = true)
    (calm : ∀ q8, s.requestAt 8 = some q8 → s.eligible q8 = true → q8.priority = false)
    (before : ∀ p' q', (p'.val + 10 - (s.seq.grantPos.val + 1)) % 10 < (p.val + 10 - (s.seq.grantPos.val + 1)) % 10 →
      s.requestAt p' = some q' → s.eligible q' = false) : s.nextRequestGrant = some (p, q) := by
  rw [State.nextRequestGrant, priorityGrant_none calm]
  exact cyclic_findSome_first _ _ p (p, q) (eligibleAt_some presented eligible)
    fun p' earlier => eligibleAt_eq_none_iff.mpr fun q' => before p' q' earlier

/-- Settles O46: the requests position by position, and the choice by priority and by turn. -/
theorem requestGrantChoosesAndSetsOut : Obligations.RequestGrantChoosesAndSetsOut := by
  unfold Obligations.RequestGrantChoosesAndSetsOut
  intro s high
  rw [exec_requestGrant high]
  refine ⟨eligible_iff s, fun n p position => ⟨fun r read => ?_, fun other => ?_⟩, post_request s.post,
    engine_request_none, fun k x line buffer h named => engine_request_some buffer h named, fun none => ?_,
    fun q presented priority eligible => ?_, fun p q presented eligible calm before => ?_⟩
  · rw [requestAt_stream position, read, request_read]
  · rw [requestAt_stream position, request_of_not_read other]
  · rw [consequence_none (requestGrant_of_none none)]
  · rw [consequence_some (requestGrant_some (nextRequestGrant_priority presented priority eligible))]
    exact ⟨_, rfl, grantRequest_granted s 8 q⟩
  · rw [consequence_some (requestGrant_some (nextRequestGrant_turn presented eligible calm before))]
    exact ⟨_, rfl, grantRequest_granted s p q⟩

/-! ### The pool's choice (R25) -/

theorem exec_slotGrant (high : s.resetLow = false) :
    exec .slotGrant s = .next (consequence slotGrant s) := congrArg _ (whileRunning_high high)

theorem claimAt_eq_some_iff {p : Pool} {cls : ClaimClass} {c c' : Fin 9} {x : Claim} :
    p.claimAt cls c = some (c', x) ↔ c' = c ∧ p.claims[c] = some x ∧ x.cls = cls := by
  unfold Pool.claimAt
  split
  · next y h =>
    rw [h, Option.ite_none_right_eq_some, Option.some_inj, Option.some_inj, Prod.mk_inj]
    constructor
    · rintro ⟨same, rfl, rfl⟩
      exact ⟨rfl, rfl, same⟩
    · rintro ⟨rfl, rfl, same⟩
      exact ⟨same, rfl, rfl⟩
  · next h => simp [h]

theorem claimAt_eq_none_iff {p : Pool} {cls : ClaimClass} {c : Fin 9} :
    p.claimAt cls c = none ↔ ∀ x, p.claims[c] = some x → x.cls ≠ cls := by
  unfold Pool.claimAt
  split
  · next y h => simp [h]
  · next h => simp [h]

theorem firstClaim_eq_none_iff {p : Pool} {cls : ClaimClass} :
    p.firstClaim cls = none ↔ ∀ (c : Fin 9) (x : Claim), p.claims[c] = some x → x.cls ≠ cls := by
  rw [Pool.firstClaim, cyclic_findSome_none]
  exact forall_congr' fun c => claimAt_eq_none_iff

theorem firstClaim_eq_some {p : Pool} {cls : ClaimClass} {c : Fin 9} {x : Claim} (h : p.firstClaim cls = some (c, x)) :
    p.claims[c] = some x ∧ x.cls = cls := by
  obtain ⟨d, found, -⟩ := cyclic_findSome_spec _ _ _ h
  obtain ⟨rfl, claim, same⟩ := claimAt_eq_some_iff.mp found
  exact ⟨claim, same⟩

theorem firstClaim_of_first {p : Pool} {c : Fin 9} {x : Claim} (claim : p.claims[c] = some x)
    (before : ∀ (c' : Fin 9) (x' : Claim),
      (c'.val + 9 - (p.grantPos.val + 1)) % 9 < (c.val + 9 - (p.grantPos.val + 1)) % 9 →
      p.claims[c'] = some x' → x'.cls ≠ x.cls) : p.firstClaim x.cls = some (c, x) :=
  cyclic_findSome_first _ _ c (c, x) (claimAt_eq_some_iff.mpr ⟨rfl, claim, rfl⟩)
    fun c' earlier => claimAt_eq_none_iff.mpr fun x' => before c' x' earlier

theorem firstFree_eq_some {p : Pool} {k : SlotId} (free : p.slots[k].owner = .free)
    (before : ∀ m : SlotId, m < k → p.slots[m].owner ≠ .free) : p.firstFree = some k := by
  rw [Pool.firstFree, List.find?_eq_some_iff_getElem]
  refine ⟨decide_eq_true free, k.val, by simp, by simp, fun j hj => ?_⟩
  have := before ⟨j, by omega⟩ hj
  simpa using this

theorem freeCount_pos {p : Pool} {k : SlotId} (free : p.slots[k].owner = .free) : 1 ≤ p.freeCount := by
  rw [freeCount_eq_count, Nat.one_le_iff_ne_zero, ← Nat.pos_iff_ne_zero, List.count_pos_iff, owners_eq_map_finRange]
  exact List.mem_map.mpr ⟨k, List.mem_finRange k, free⟩

theorem nextGrant_none {p : Pool} (h : p.freeCount = 0 ∨ (∀ c : Fin 9, p.claims[c] = none) ∨
    (p.freeCount ≤ 10 ∧ ∀ (c : Fin 9) (x : Claim), p.claims[c] = some x → x.cls = .readAhead)) : p.nextGrant = none := by
  have noClass (cls : ClaimClass) (none : ∀ c : Fin 9, p.claims[c] = Option.none) : p.firstClaim cls = Option.none :=
    firstClaim_eq_none_iff.mpr fun c x claim => by
      rw [none c] at claim
      cases claim
  unfold Pool.nextGrant
  rcases h with empty | none | ⟨few, readAhead⟩
  · rw [empty]
    split <;> rfl
  · rw [noClass .essential none, noClass .readAhead none]
    exact ite_self _
  · have noEssential : p.firstClaim .essential = none :=
      firstClaim_eq_none_iff.mpr fun c x claim => by
        rw [readAhead c x claim]
        decide
    rw [noEssential]
    exact if_neg (Nat.not_lt.mpr few)

theorem nextGrant_essential {p : Pool} {c : Fin 9} {x : Claim} (first : p.firstClaim .essential = some (c, x))
    (room : 1 ≤ p.freeCount) : p.nextGrant = some (c, x) := by
  simp only [Pool.nextGrant, first, room, if_true]

theorem nextGrant_readAhead {p : Pool} {c : Fin 9} {x : Claim} (noEssential : p.firstClaim .essential = none)
    (first : p.firstClaim .readAhead = some (c, x)) (room : 11 ≤ p.freeCount) : p.nextGrant = some (c, x) := by
  have above : Config.reserve < p.freeCount := room
  simp only [Pool.nextGrant, noEssential, above, if_true, first]

theorem slotGrant_none (h : s.pool.nextGrant = none) : slotGrant s = none := by
  simp only [slotGrant, h]

theorem slotGrant_some {c : Fin 9} {x : Claim} {k : SlotId} (next : s.pool.nextGrant = some (c, x))
    (free : s.pool.firstFree = some k) :
    slotGrant s = some ((s.withPool (s.pool.granted c)).takeSlot c x k) := by
  simp only [slotGrant, next, free]

/-! ### What each purpose makes of the slot (R27, R40, R144, R147) -/

theorem nextFetch_eq (r : ReadStream) : r.nextFetch =
    if r.window.endPolicy = .wrap ∧ r.fetchCursor = lineOf r.window.last then lineOf r.window.first
    else r.fetchCursor + 16 := by
  unfold ReadStream.nextFetch
  cases r.window.endPolicy <;> simp

theorem grantRead_of_need {r : ReadStream} (read : s.streams[n] = .read r) (need : r.fetchNeed = true) (k : SlotId) :
    s.grantRead n k = (s.own k (.read n)).setStream n (.read (r.append k)) := by
  simp only [State.grantRead, read, need, if_true]

theorem waitingWrite_of_stretched {v : Byte} {left : Nat} (h : s.bus = .stretched n (.write v) left) :
    s.bus.waitingWrite n = some v := by
  simp only [Bus.waitingWrite, h, if_true]

theorem waitingWrite_none (h : ∀ v left, s.bus ≠ .stretched n (.write v) left) : s.bus.waitingWrite n = none := by
  unfold Bus.waitingWrite
  split
  · next m v left bus =>
    refine if_neg fun same => h v left ?_
    rw [bus, same]
  all_goals rfl

theorem grantAssembly_of_byte {w : WriteStream} {v : Byte} (byte : s.bus.waitingWrite n = some v) (k : SlotId) :
    s.grantAssembly n w k = (((s.own k (.assembly n)).setStream n (.write (w.withAssembly k))).placeByte n
      (w.withAssembly k) { slot := k, line := lineOf w.cursor, mask := 0#16, frozen := false } v).withBus
      (.answered none) := by
  simp only [State.grantAssembly, byte, WriteStream.withAssembly]

theorem enterRunning_acquiring {e : Engine} {j : ActiveJob} (h : e.state = .acquiring j) :
    e.enterRunning = { e with state := .running j.fixDirection } := by
  simp only [Engine.enterRunning, h]

theorem fixDirection_frame (j : ActiveJob) : j.fixDirection = { j with direction := j.fixDirection.direction } := by
  unfold ActiveJob.fixDirection
  split <;> rfl

theorem fixDirection_copy {j : ActiveJob} {a b : Nat} (copy : j.job.work = .copy a b) :
    j.fixDirection.direction = some (copyDirection a b j.job.length) := by
  simp only [ActiveJob.fixDirection, copy]

theorem fixDirection_other {j : ActiveJob} (other : ∀ a b, j.job.work ≠ .copy a b) : j.fixDirection = j := by
  unfold ActiveJob.fixDirection
  split
  · next a b copy => exact (other a b copy).elim
  all_goals rfl

theorem grantDest_of_chunk {j : ActiveJob} {c : Chunk} (running : s.engine.state = .running j)
    (chunk : j.destChunk = some c) (k : SlotId) : s.grantDest k = (s.own k .jobDest).mapEngine fun e =>
      { e with dest := some { slot := k, line := lineOf c.lo, mask := 0#16, held := false } } := by
  simp only [State.grantDest, Engine.active, running, chunk]

/-! ### Claims (R23, R24, R39, R60, R144, R147) -/

theorem claimOf_stream {c : Fin 9} (h : c.val = n.val) : s.claimOf c = s.streams[n].claim := by
  simp [State.claimOf, h]

theorem claimOf_engine (s : State) : s.claimOf 8 = s.engine.claim s.pool.claims[(8 : Fin 9)] := rfl

theorem hasRequested_eq_false_iff {r : ReadStream} : r.hasRequested = false ↔ ∀ e ∈ r.queue, e.state ≠ .requested := by
  simp [ReadStream.hasRequested]

theorem withinWindow_iff {r : ReadStream} :
    r.withinWindow = true ↔ r.window.endPolicy = .wrap ∨ r.fetchCursor ≤ lineOf r.window.last := by
  unfold ReadStream.withinWindow
  cases r.window.endPolicy <;> simp

theorem fetchNeed_iff {r : ReadStream} : r.fetchNeed = true ↔ r.ended = false ∧ r.queue.length < r.depth ∧
    (∀ e ∈ r.queue, e.state ≠ .requested) ∧ (r.window.endPolicy = .wrap ∨ r.fetchCursor ≤ lineOf r.window.last) := by
  rw [← hasRequested_eq_false_iff, ← withinWindow_iff]
  simp [ReadStream.fetchNeed, and_assoc]

theorem claim_read_none {r : ReadStream} (h : ¬ r.fetchNeed = true) : (Stream.read r).claim = none := if_neg h

theorem claim_read_some {r : ReadStream} (h : r.fetchNeed = true) :
    (Stream.read r).claim = some { cls := r.claimClass, purpose := .read } := if_pos h

theorem claim_write_noSlot {w : WriteStream} (h : w.state = .blocked .noSlot) :
    (Stream.write w).claim = some { cls := .essential, purpose := .assembly } := by
  simp only [Stream.claim, h]

theorem claim_write_none {w : WriteStream} (h : w.state ≠ .blocked .noSlot) : (Stream.write w).claim = none := by
  unfold Stream.claim
  dsimp only
  split
  · exact (h ‹_›).elim
  all_goals rfl

theorem claimList_toList_eq_iff (s : State) : s.claimList.toList = s.pool.claims.toList ↔
    ∀ c : Fin 9, s.pool.claims[c] = s.claimOf c := by
  rw [Vector.toList_inj]
  constructor
  · intro h c
    rw [← h]
    simp [State.claimList]
  · intro h
    refine Vector.ext fun i hi => ?_
    rw [State.claimList, Vector.getElem_ofFn]
    exact (h ⟨i, hi⟩).symm

/-- The engine at work, or with its outcome decided, or cancelled (R147, log entry 27). -/
theorem working_eq_true_iff {j : ActiveJob} : j.working = true ↔ j.cancel = false ∧ j.outcome = none := by
  rw [ActiveJob.working, Bool.and_eq_true, Bool.not_eq_true', Option.isNone_iff_eq_none, and_comm]

theorem engine_claim_none {e : Engine} {waiting : Option Claim}
    (h : e.state = .idle ∨ ∃ r, e.state = .completing r) : e.claim waiting = none := by
  rcases h with h | ⟨r, h⟩ <;> simp only [Engine.claim, h]

theorem engine_claim_acquiring {e : Engine} {waiting : Option Claim} {j : ActiveJob} (h : e.state = .acquiring j) :
    e.claim waiting = if j.working then e.sourceClaim else none := by
  simp only [Engine.claim, h]

theorem engine_claim_running {e : Engine} {waiting : Option Claim} {j : ActiveJob} (h : e.state = .running j) :
    e.claim waiting = if j.working then e.destClaim j else if j.outcome.isSome then none else waiting := by
  simp only [Engine.claim, h]

theorem sourceClaim_first {e : Engine} (h : e.buffers[(0 : Fin 2)] = none) :
    e.sourceClaim = some { cls := .essential, purpose := .jobSource 0 } := by
  have first : e.buffers[0] = none := h
  unfold Engine.sourceClaim
  rw [first]

theorem sourceClaim_second {e : Engine} {x : SourceBuffer} (h : e.buffers[(0 : Fin 2)] = some x)
    (g : e.buffers[(1 : Fin 2)] = none) : e.sourceClaim = some { cls := .essential, purpose := .jobSource 1 } := by
  have first : e.buffers[0] = some x := h
  have second : e.buffers[1] = none := g
  unfold Engine.sourceClaim
  rw [first, second]

/-- A COPY or FILL has a destination chunk, and no other job has. -/
theorem destChunk_isSome {j : ActiveJob} (h : (∃ a b, j.job.work = .copy a b) ∨ (∃ a v, j.job.work = .fill a v)) :
    ∃ c, j.destChunk = some c := by
  rcases h with ⟨a, b, h⟩ | ⟨a, v, h⟩
  · simp only [ActiveJob.destChunk, h]
    split <;> exact ⟨_, rfl⟩
  · simp only [ActiveJob.destChunk, h]
    exact ⟨_, rfl⟩

theorem destChunk_none {j : ActiveJob}
    (h : (∃ a p m c, j.job.work = .scan a p m c) ∨ (∃ a b, j.job.work = .compare a b)) : j.destChunk = none := by
  rcases h with ⟨a, p, m, c, h⟩ | ⟨a, b, h⟩ <;> simp only [ActiveJob.destChunk, h]

theorem destClaim_some {e : Engine} {j : ActiveJob} {c : Chunk} (h : e.dest = none) (chunk : j.destChunk = some c) :
    e.destClaim j = some { cls := .essential, purpose := .jobDest } := by
  simp only [Engine.destClaim, h, chunk]

theorem destClaim_none {e : Engine} {j : ActiveJob} (h : (∃ d, e.dest = some d) ∨ j.destChunk = none) :
    e.destClaim j = none := by
  unfold Engine.destClaim
  rcases h with ⟨d, h⟩ | h
  · rw [h]
  · rw [h]
    cases e.dest <;> rfl

/-- Settles O47: the choice, what each purpose makes of the slot, and the claim of each claimant. -/
theorem slotGrantChoosesByClassAndTurn : Obligations.SlotGrantChoosesByClassAndTurn := by
  unfold Obligations.SlotGrantChoosesByClassAndTurn
  intro s high
  rw [exec_slotGrant high]
  refine ⟨fun nothing => ?nothing, fun c x k claim free before turn => ?granted, fun n r cls k read need => ?read,
    fun n w opened made cls k t write blocked made_eq opened_eq t_eq => ?assembly, fun cls k => ?source0,
    fun cls k j acquiring => ?source1, fun cls k j c running chunk => ?dest, fun synced => ?synced, fun c differs => ?sync,
    fun n c position => ⟨fun closed => ?_, fun r read => ⟨fun noNeed => ?_, fun need empty => ?_, fun need some => ?_⟩,
      fun w write => ⟨fun blocked => ?_, fun other => ?_⟩⟩,
    fun quiet => engine_claim_none quiet, fun j acquiring => ?acquiring, fun j running => ?running⟩
  case nothing => rw [consequence_none (slotGrant_none (nextGrant_none nothing))]
  case granted =>
    have next : s.pool.nextGrant = some (c, x) := by
      rcases turn with ⟨cls, earlier⟩ | ⟨cls, room, onlyAhead, earlier⟩
      · refine nextGrant_essential (cls ▸ firstClaim_of_first claim fun c' x' before claim' => ?_) (freeCount_pos free)
        rw [earlier c' x' before claim', cls]
        decide
      · refine nextGrant_readAhead (firstClaim_eq_none_iff.mpr fun c' x' claim' => ?_)
          (cls ▸ firstClaim_of_first claim fun c' x' before claim' => ?_) room
        · rw [onlyAhead c' x' claim']
          decide
        · rw [earlier c' before] at claim'
          cases claim'
    rw [consequence_some (slotGrant_some next (firstFree_eq_some free before))]
    rfl
  case read =>
    have below : (n.castLE (by decide) : Fin 9).val < 8 := n.isLt
    simp only [State.takeSlot, below, dif_pos]
    exact (grantRead_of_need read need k).trans (by rw [ReadStream.append, nextFetch_eq]; rfl)
  case assembly =>
    have below : (n.castLE (by decide) : Fin 9).val < 8 := n.isLt
    have taken : s.takeSlot (n.castLE (by decide)) { cls := cls, purpose := .assembly } k = s.grantAssembly n w k := by
      simp only [State.takeSlot, below, dif_pos]
      simp only [State.grantWrite, Fin.eta, Fin.val_castLE, write, blocked, if_true]
    subst made_eq opened_eq t_eq
    rw [taken]
    refine ⟨fun noByte => ?_, fun v left byte => ?_⟩
    · exact WriteStreams.grantAssembly_of_no_byte (waitingWrite_none noByte) w k
    · exact grantAssembly_of_byte (waitingWrite_of_stretched byte) k
  case source0 => exact ⟨_, rfl, rfl⟩
  case source1 =>
    refine ⟨_, j.fixDirection.direction, rfl, ?_, fun a b copy => ⟨fun down => ?_, fun up => ?_⟩, fun other => ?_⟩
    · rw [← fixDirection_frame]
      simp only [State.takeSlot, State.grantSource, State.mapEngine, if_true]
      rw [enterRunning_acquiring (by exact acquiring)]
      rfl
    · rw [fixDirection_copy copy, copyDirection, if_pos down]
    · rw [fixDirection_copy copy, copyDirection, if_neg up]
    · rw [fixDirection_other other]
  case dest => exact grantDest_of_chunk running chunk k
  case synced => exact if_pos ((claimList_toList_eq_iff s).mpr synced)
  case sync =>
    refine ⟨s.claimList, if_neg fun same => differs ((claimList_toList_eq_iff s).mp same c), fun d => ?_⟩
    simp [State.claimList]
  · rw [claimOf_stream position, closed]
    rfl
  · rw [claimOf_stream position, read, claim_read_none (mt fetchNeed_iff.mp noNeed)]
  · rw [claimOf_stream position, read, claim_read_some (fetchNeed_iff.mpr need), ReadStream.claimClass, empty]
    rfl
  · rw [claimOf_stream position, read, claim_read_some (fetchNeed_iff.mpr need), ReadStream.claimClass,
      if_neg (mt List.isEmpty_iff.mp some)]
  · rw [claimOf_stream position, write, claim_write_noSlot blocked]
  · rw [claimOf_stream position, write, claim_write_none other]
  case acquiring =>
    rw [claimOf_engine, engine_claim_acquiring acquiring]
    refine ⟨fun stopped => if_neg fun h => ?_, fun goes undecided => ?_⟩
    · obtain ⟨goes, undecided⟩ := working_eq_true_iff.mp h
      rcases stopped with stopped | stopped
      · exact Bool.false_ne_true (goes.symm.trans stopped)
      · exact stopped undecided
    · rw [if_pos (working_eq_true_iff.mpr ⟨goes, undecided⟩)]
      exact ⟨sourceClaim_first, fun x => sourceClaim_second⟩
  case running =>
    rw [claimOf_engine, engine_claim_running running]
    refine ⟨fun decided => ?_, fun cancelled undecided => ?_, fun goes undecided => ?_⟩
    · have notWorking : ¬ j.working = true := fun h => decided (working_eq_true_iff.mp h).2
      rw [if_neg notWorking, if_pos (Option.isSome_iff_ne_none.mpr decided)]
    · have notWorking : ¬ j.working = true := fun h =>
        Bool.false_ne_true ((working_eq_true_iff.mp h).1.symm.trans cancelled)
      rw [if_neg notWorking, undecided]
      rfl
    · rw [if_pos (working_eq_true_iff.mpr ⟨goes, undecided⟩)]
      refine ⟨fun noDest builds => ?_, fun none => ?_⟩
      · obtain ⟨c, chunk⟩ := destChunk_isSome builds
        exact destClaim_some noDest chunk
      · exact destClaim_none (none.imp_right destChunk_none)

end Sys2Proof.Proofs.Grants

/-! PROOFS. The taking of held posts and the drains that it lets end (R65, R66, R74, R77). -/

namespace Sys2Proof.Proofs.HeldPosts

open Sys2Proof Sys2Proof.Machine Sys2Proof.Safety Sys2Proof.Laws
open Sys2Proof.Proofs.Grants Sys2Proof.Proofs.Sequencing

variable {s t : State} {n : StreamId} {o : Fin 9}

/-! ### The held post of an origin (R59, R77, R147) -/

theorem exec_heldPostAcceptance (high : s.resetLow = false) :
    exec .heldPostAcceptance s = .next (consequence heldPostAcceptance s) := congrArg _ (whileRunning_high high)

theorem heldAt_stream (h : o.val = n.val) : s.heldAt o = s.streams[n].heldPost := by
  simp [State.heldAt, h]

theorem heldAt_engine (s : State) : s.heldAt 8 = s.engine.heldPost := rfl

theorem stream_heldPost_iff {c : Stream} {p : HeldPost} : c.heldPost = some p ↔
    ∃ (w : WriteStream) (a : Assembly), c = .write w ∧ w.assembly = some a ∧ a.frozen = true ∧
      p = { line := a.line, mask := a.mask, slot := a.slot } := by
  constructor
  · intro h
    unfold Stream.heldPost at h
    split at h
    · cases h
    · cases h
    · next w =>
      split at h
      · next a assembly =>
        split at h
        · next frozen => exact ⟨w, a, rfl, assembly, frozen, (Option.some.inj h).symm⟩
        · cases h
      · cases h
  · rintro ⟨w, a, rfl, assembly, frozen, rfl⟩
    simp only [Stream.heldPost, assembly, frozen, if_true]

theorem engine_heldPost_iff {e : Engine} {p : HeldPost} : e.heldPost = some p ↔
    ∃ d, e.dest = some d ∧ d.held = true ∧ p = { line := d.line, mask := d.mask, slot := d.slot } := by
  constructor
  · intro h
    unfold Engine.heldPost at h
    split at h
    · next d dest =>
      split at h
      · next held => exact ⟨d, dest, held, (Option.some.inj h).symm⟩
      · cases h
    · cases h
  · rintro ⟨d, dest, held, rfl⟩
    simp only [Engine.heldPost, dest, held, if_true]

/-- The held posts are the frozen assemblies and the held destination line. -/
theorem heldAt_iff {p : HeldPost} : s.heldAt o = some p ↔
    (∃ (n : StreamId) (w : WriteStream) (a : Assembly), o.val = n.val ∧ s.streams[n] = .write w ∧
      w.assembly = some a ∧ a.frozen = true ∧ p = { line := a.line, mask := a.mask, slot := a.slot }) ∨
    (o.val = 8 ∧ ∃ d, s.engine.dest = some d ∧ d.held = true ∧
      p = { line := d.line, mask := d.mask, slot := d.slot }) := by
  by_cases below : o.val < 8
  · rw [heldAt_stream (n := ⟨o.val, below⟩) rfl, stream_heldPost_iff]
    constructor
    · rintro ⟨w, a, stream, rest⟩
      exact .inl ⟨⟨o.val, below⟩, w, a, rfl, stream, rest⟩
    · rintro (⟨n, w, a, same, stream, rest⟩ | ⟨eight, -⟩)
      · obtain rfl : n = ⟨o.val, below⟩ := Fin.ext same.symm
        exact ⟨w, a, stream, rest⟩
      · omega
  · obtain rfl : o = 8 := by omega
    rw [heldAt_engine, engine_heldPost_iff]
    constructor
    · exact fun held => .inr ⟨rfl, held⟩
    · rintro (⟨n, w, a, same, -⟩ | ⟨-, held⟩)
      · exact absurd same.symm (Nat.ne_of_lt n.isLt)
      · exact held

/-! ### The search (R77) -/

theorem takeHeld_none (h : ∀ p, s.heldAt o = some p → s.acceptPost p.line p.mask p.slot = none) :
    s.takeHeld o = none := by
  unfold State.takeHeld
  split
  · next p held => rw [h p held]
  · rfl

theorem takeHeld_some {p : HeldPost} (held : s.heldAt o = some p)
    (taken : s.acceptPost p.line p.mask p.slot = some t) :
    s.takeHeld o = some ((t.withPost { t.post with servePos := o }).posterAccepted o) := by
  simp only [State.takeHeld, held, taken]

theorem heldPostAcceptance_none
    (h : ∀ (o : Fin 9) (p : HeldPost), s.heldAt o = some p → s.acceptPost p.line p.mask p.slot = none) :
    heldPostAcceptance s = none :=
  (cyclic_findSome_none _ _).mpr fun o => takeHeld_none (h o)

theorem heldPostAcceptance_first {p : HeldPost} (held : s.heldAt o = some p)
    (taken : s.acceptPost p.line p.mask p.slot = some t)
    (before : ∀ (o' : Fin 9) (q : HeldPost),
      (o'.val + 9 - (s.post.servePos.val + 1)) % 9 < (o.val + 9 - (s.post.servePos.val + 1)) % 9 →
      s.heldAt o' = some q → s.acceptPost q.line q.mask q.slot = none) :
    heldPostAcceptance s = some ((t.withPost { t.post with servePos := o }).posterAccepted o) :=
  cyclic_findSome_first _ _ o _ (takeHeld_some held taken) fun o' earlier => takeHeld_none fun q => before o' q earlier

/-! ### The poster (R65, R66, R74, R147) -/

theorem posterAccepted_stream {w : WriteStream} (h : o.val = n.val) (write : t.streams[n] = .write w) :
    t.posterAccepted o = t.setStream n (.write (w.accepted (t.bus.waitingWrite n).isSome)) := by
  have below : o.val < 8 := by omega
  obtain rfl : n = ⟨o.val, below⟩ := Fin.ext h.symm
  have stream : t.streams[o.val] = .write w := write
  simp only [State.posterAccepted, below, dif_pos, stream]

theorem posterAccepted_engine {d : DestLine} (dest : t.engine.dest = some d) :
    t.posterAccepted 8 = t.endChunk (maskCount d.mask) := by
  have above : ¬ (8 : Fin 9).val < 8 := by decide
  simp only [State.posterAccepted, above, dif_neg, not_false_eq_true, dest]

/-- The state in which an accepted held post leaves its stream (R65, R66, R74). -/
theorem accepted_of {w : WriteStream} {b : Bus} {x : WriteState}
    (h : w.state = .blocked .postFull ∧
        ((b.waitingWrite n = none ∧ x = .opened) ∨ (b.waitingWrite n ≠ none ∧ x = .blocked .noSlot)) ∨
      (w.state = .draining ∨ w.state = .ended) ∧ x = w.state) :
    w.accepted (b.waitingWrite n).isSome = { w with lingerTimer := none, assembly := none, state := x } := by
  rcases h with ⟨blocked, ⟨noByte, rfl⟩ | ⟨byte, rfl⟩⟩ | ⟨drains | ended, rfl⟩
  · simp [WriteStream.accepted, blocked, noByte]
  · simp [WriteStream.accepted, blocked, Option.isSome_iff_ne_none.mpr byte]
  · simp [WriteStream.accepted, drains]
  · simp [WriteStream.accepted, ended]

theorem heldPostAcceptance_stream {w : WriteStream} {a : Assembly} {x : WriteState} (write : s.streams[n] = .write w)
    (assembly : w.assembly = some a) (frozen : a.frozen = true)
    (taken : s.acceptPost a.line a.mask a.slot = some t)
    (left : w.accepted (s.bus.waitingWrite n).isSome = { w with lingerTimer := none, assembly := none, state := x })
    (before : ∀ (o : Fin 9) (p : HeldPost),
      (o.val + 9 - (s.post.servePos.val + 1)) % 9 < (n.val + 9 - (s.post.servePos.val + 1)) % 9 →
      s.heldAt o = some p → s.acceptPost p.line p.mask p.slot = none) :
    heldPostAcceptance s = some ((t.withPost { t.post with servePos := n.castLE (by decide) }).setStream n
      (.write { w with lingerTimer := none, assembly := none, state := x })) := by
  have held : s.heldAt (n.castLE (by decide)) = some { line := a.line, mask := a.mask, slot := a.slot } :=
    heldAt_iff.mpr (.inl ⟨n, w, a, rfl, write, assembly, frozen, rfl⟩)
  have sameStreams : t.streams = s.streams := by rw [acceptPost_keeps taken]
  have sameBus : t.bus = s.bus := by rw [acceptPost_keeps taken]
  rw [heldPostAcceptance_first held taken before,
    posterAccepted_stream (n := n) rfl (w := w) (by rw [withPost_streams, sameStreams, write]), withPost_bus, sameBus, left]

theorem heldPostAcceptance_engine {d : DestLine} (dest : s.engine.dest = some d) (held : d.held = true)
    (taken : s.acceptPost d.line d.mask d.slot = some t)
    (before : ∀ (o : Fin 9) (p : HeldPost),
      (o.val + 9 - (s.post.servePos.val + 1)) % 9 < (8 + 9 - (s.post.servePos.val + 1)) % 9 →
      s.heldAt o = some p → s.acceptPost p.line p.mask p.slot = none) :
    heldPostAcceptance s =
      some ((t.withPost { t.post with servePos := 8 }).endChunk (maskCount d.mask)) := by
  have sameEngine : t.engine = s.engine := by rw [acceptPost_keeps taken]
  rw [heldPostAcceptance_first (o := 8) (heldAt_iff.mpr (.inr ⟨rfl, d, dest, held, rfl⟩)) taken before,
    posterAccepted_engine (d := d) (by rw [withPost_engine, sameEngine, dest])]

/-! ### The end of a drain (R74) -/

theorem exec_drainComplete (high : s.resetLow = false) :
    exec .drainComplete s = .next (consequence drainComplete s) := congrArg _ (whileRunning_high high)

theorem drainComplete_of_drained {c : InProgress} {w : WriteStream} (executing : s.port.state = .executing c)
    (stream : c.params[0].toNat = n.val) (write : s.streams[n] = .write w) (drains : w.state = .draining)
    (empty : w.assembly = none) : drainComplete s =
      some (completedWith (s.setStream n (drainEffect c.command (Params.target c.params) w)) .ok) := by
  simp only [drainComplete, executing, stream_of_param stream, write, drains, empty, and_self, if_true,
    State.finishDrain, complete_eq]

/-- Settles O48: by the search for the first held post that can be taken, and by what becomes of its poster. -/
theorem heldPostsAndDrainsComplete : Obligations.HeldPostsAndDrainsComplete := by
  unfold Obligations.HeldPostsAndDrainsComplete
  intro s high
  rw [exec_heldPostAcceptance high, exec_drainComplete high]
  refine ⟨fun n w a x t write assembly frozen taken left before => ?_, fun d t dest held taken before => ?_,
    fun none => ?_, fun o p => heldAt_iff, fun n w c executing stream write drains empty => ?_⟩
  · rw [consequence_some (heldPostAcceptance_stream write assembly frozen taken (accepted_of left) before)]
  · rw [consequence_some (heldPostAcceptance_engine dest held taken before)]
    rfl
  · rw [consequence_none (heldPostAcceptance_none none)]
  · rw [consequence_some (drainComplete_of_drained executing stream write drains empty)]
    refine ⟨fun command => ?_, fun command => ?_, fun command => ?_⟩ <;> rw [command] <;> rfl

end Sys2Proof.Proofs.HeldPosts

/-! PROOFS. Coherence (05): the owner and the bytes of a slot after each pool operation, patch-on-accept (R88), and the
current value through acceptance, grant, store and return (R85, R86, R90). -/

namespace Sys2Proof.Proofs.Coherence

open Sys2Proof Sys2Proof.Machine Sys2Proof.Safety Sys2Proof.Laws
open Sys2Proof.Proofs.Sequencing

variable {s t : State} {line : Nat} {mask : ByteMask} {k : SlotId} {e : PostEntry}

/-! ### Owner and bytes after a pool operation -/

theorem owner_own (s : State) (k : SlotId) (o : Owner) (j : SlotId) :
    (s.own k o).pool.slots[j].owner = if j = k then o else s.pool.slots[j].owner := by
  by_cases h : j = k
  · subst h
    simp
  · have apart : k.val ≠ j.val := fun same => h (Fin.ext same.symm)
    simp [h, apart]

@[simp] theorem bytesOf_own (s : State) (k : SlotId) (o : Owner) (j : SlotId) : (s.own k o).bytesOf j = s.bytesOf j := by
  by_cases h : j = k
  · subst h
    simp [State.bytesOf]
  · have apart : k.val ≠ j.val := fun same => h (Fin.ext same.symm)
    simp [State.bytesOf, apart]

@[simp] theorem bytesOf_release (s : State) (k j : SlotId) : (s.release k).bytesOf j = s.bytesOf j := bytesOf_own s k .free j

@[simp] theorem owner_fillSlot (s : State) (k : SlotId) (l : Line) (j : SlotId) :
    (s.fillSlot k l).pool.slots[j].owner = s.pool.slots[j].owner := by
  by_cases h : j = k
  · subst h
    simp
  · have apart : k.val ≠ j.val := fun same => h (Fin.ext same.symm)
    simp [apart]

theorem bytesOf_fillSlot (s : State) (k : SlotId) (l : Line) (j : SlotId) :
    (s.fillSlot k l).bytesOf j = if j = k then l else s.bytesOf j := by
  by_cases h : j = k
  · subst h
    simp [State.bytesOf]
  · have apart : k.val ≠ j.val := fun same => h (Fin.ext same.symm)
    simp [State.bytesOf, h, apart]

theorem bytesOf_fillSlot_other {j : SlotId} (s : State) (l : Line) (h : j ≠ k) : (s.fillSlot k l).bytesOf j = s.bytesOf j := by
  rw [bytesOf_fillSlot, if_neg h]

theorem bytesOf_withPost (s : State) (p : PostQueue) (j : SlotId) : (s.withPost p).bytesOf j = s.bytesOf j := rfl

/-! ### Patch-on-accept (R88) -/

/-- An entry of a list is FILLED for a line in a slot. -/
def Patches (es : List ReadEntry) (line : Nat) (k : SlotId) : Prop :=
  ∃ e ∈ es, e.line = line ∧ e.state = .filled ∧ e.slot = k

theorem overlay_overlay (base new : Line) (mask : ByteMask) :
    overlay (overlay base new mask) new mask = overlay base new mask :=
  line_ext fun i => by
    simp only [getElem_overlay]
    split <;> rfl

theorem patchEntry_cases (line : Nat) (mask : ByteMask) (bytes : Line) (s : State) (e : ReadEntry) :
    (e.line = line ∧ e.state = .filled ∧
      s.patchEntry line mask bytes e = s.fillSlot e.slot (overlay (s.bytesOf e.slot) bytes mask)) ∨
    (¬ (e.line = line ∧ e.state = .filled) ∧ s.patchEntry line mask bytes e = s) := by
  unfold State.patchEntry
  split
  · next h => exact .inl ⟨h.1, h.2, rfl⟩
  · next h => exact .inr ⟨h, rfl⟩

/-- Patching entry by entry: the owners stay, and each patched slot takes the bytes, once or more often. -/
theorem foldl_patchEntry (mask : ByteMask) (bytes : Line) (k : SlotId) (es : List ReadEntry) (s : State) :
    (es.foldl (State.patchEntry line mask bytes) s).pool.slots[k].owner = s.pool.slots[k].owner ∧
    (Patches es line k →
      (es.foldl (State.patchEntry line mask bytes) s).bytesOf k = overlay (s.bytesOf k) bytes mask) ∧
    (¬ Patches es line k → (es.foldl (State.patchEntry line mask bytes) s).bytesOf k = s.bytesOf k) := by
  induction es generalizing s with
  | nil => exact ⟨rfl, nofun, fun _ => rfl⟩
  | cons x es ih =>
    rw [List.foldl_cons]
    obtain ⟨owner, patched, other⟩ := ih (s.patchEntry line mask bytes x)
    rcases patchEntry_cases line mask bytes s x with ⟨hl, hs, patch⟩ | ⟨passed, patch⟩
    · rw [patch] at owner patched other ⊢
      refine ⟨owner.trans (owner_fillSlot ..), ?_, fun none => ?_⟩
      · rintro ⟨e, he, rest⟩
        by_cases again : Patches es line k
        · rw [patched again, bytesOf_fillSlot]
          split
          · next same => rw [same, overlay_overlay]
          · rfl
        · have first : x.slot = k := by
            rcases List.mem_cons.mp he with rfl | he
            · exact rest.2.2
            · exact (again ⟨e, he, rest⟩).elim
          rw [other again, bytesOf_fillSlot, if_pos first.symm, first]
      · have apart : k ≠ x.slot := fun same => none ⟨x, List.mem_cons_self, hl, hs, same.symm⟩
        rw [other fun ⟨e, he, rest⟩ => none ⟨e, List.mem_cons_of_mem x he, rest⟩, bytesOf_fillSlot_other s _ apart]
    · rw [patch] at owner patched other ⊢
      refine ⟨owner, ?_, fun none => other fun ⟨e, he, rest⟩ => none ⟨e, List.mem_cons_of_mem x he, rest⟩⟩
      rintro ⟨e, he, rest⟩
      rcases List.mem_cons.mp he with rfl | he
      · exact (passed ⟨rest.1, rest.2.1⟩).elim
      · exact patched ⟨e, he, rest⟩

/-- A FILLED entry for a line in a slot stands in some read stream. -/
def FilledFor (s : State) (line : Nat) (k : SlotId) : Prop :=
  ∃ (n : StreamId) (r : ReadStream) (e : ReadEntry), s.streams[n] = .read r ∧ e ∈ r.queue ∧ e.line = line ∧
    e.state = .filled ∧ e.slot = k

theorem mem_entries {c : Stream} {e : ReadEntry} : e ∈ c.entries ↔ ∃ r, c = .read r ∧ e ∈ r.queue := by
  cases c <;> simp [Stream.entries]

theorem patches_streams (s : State) (line : Nat) (k : SlotId) :
    Patches (s.streams.toList.flatMap Stream.entries) line k ↔ FilledFor s line k := by
  constructor
  · rintro ⟨e, he, rest⟩
    obtain ⟨c, hc, he⟩ := List.mem_flatMap.mp he
    obtain ⟨i, hi, rfl⟩ := List.mem_iff_getElem.mp hc
    obtain ⟨r, hr, he⟩ := mem_entries.mp he
    exact ⟨⟨i, by simpa using hi⟩, r, e, by simpa using hr, he, rest⟩
  · rintro ⟨n, r, e, hr, he, rest⟩
    exact ⟨e, List.mem_flatMap.mpr ⟨s.streams[n], by simp, mem_entries.mpr ⟨r, hr, he⟩⟩, rest⟩

@[simp] theorem owner_patchFilled (s : State) (line : Nat) (mask : ByteMask) (bytes : Line) (k : SlotId) :
    (s.patchFilled line mask bytes).pool.slots[k].owner = s.pool.slots[k].owner :=
  (foldl_patchEntry mask bytes k _ s).1

theorem bytesOf_patchFilled_of_filled (h : FilledFor s line k) (mask : ByteMask) (bytes : Line) :
    (s.patchFilled line mask bytes).bytesOf k = overlay (s.bytesOf k) bytes mask :=
  (foldl_patchEntry mask bytes k _ s).2.1 ((patches_streams s line k).mpr h)

theorem bytesOf_patchFilled_other (h : ¬ FilledFor s line k) (mask : ByteMask) (bytes : Line) :
    (s.patchFilled line mask bytes).bytesOf k = s.bytesOf k :=
  (foldl_patchEntry mask bytes k _ s).2.2 (mt (patches_streams s line k).mp h)

/-- Settles O53: patching entry by entry, over the entries of every stream. -/
theorem patchOnAcceptReachesEveryFilledEntry : Obligations.PatchOnAcceptReachesEveryFilledEntry := by
  unfold Obligations.PatchOnAcceptReachesEveryFilledEntry
  intro line mask incoming s
  refine ⟨patchFilled_keeps s line mask incoming, owner_patchFilled s line mask incoming,
    fun n r e read mem same filled i => ?_, fun k none => bytesOf_patchFilled_other ?_ mask incoming⟩
  · rw [bytesOf_patchFilled_of_filled ⟨n, r, e, read, mem, same, filled, rfl⟩, getElem_overlay]
  · rintro ⟨n, r, e, read, mem, same, filled, slot⟩
    exact none n r e read mem same filled slot

/-! ### The entries for a line (R75, R85) -/

/-- The first entry for a line in one state. -/
def entryFor (p : PostQueue) (st : PostState) (line : Nat) : Option PostEntry :=
  p.entries.find? fun e => e.line = line ∧ e.state = st

theorem overlaidBy_eq (s : State) (st : PostState) (a : Nat) (v : Byte) : s.overlaidBy st a v =
    match entryFor s.post st (lineOf a) with
    | some e => if e.mask.getLsbD (offsetOf a) then Line.at (s.bytesOf e.slot) a else v
    | none => v := rfl

theorem waitingFor_eq (p : PostQueue) (line : Nat) : p.waitingFor line = entryFor p .waiting line := rfl

theorem overlaidBy_some {st : PostState} {a : Nat} (h : entryFor s.post st (lineOf a) = some e) (v : Byte) :
    s.overlaidBy st a v = if e.mask.getLsbD (offsetOf a) then Line.at (s.bytesOf e.slot) a else v := by
  rw [overlaidBy_eq, h]

theorem overlaidBy_none {st : PostState} {a : Nat} (h : entryFor s.post st (lineOf a) = none) (v : Byte) :
    s.overlaidBy st a v = v := by
  rw [overlaidBy_eq, h]

theorem entryFor_mem {p : PostQueue} {st : PostState} (h : entryFor p st line = some e) :
    e ∈ p.entries ∧ e.line = line ∧ e.state = st := by
  have found := List.find?_some h
  simp only [decide_eq_true_eq] at found
  exact ⟨List.mem_of_find?_eq_some h, found⟩

theorem entryFor_none {p : PostQueue} {st : PostState} :
    entryFor p st line = none ↔ ∀ x ∈ p.entries, x.line = line → x.state ≠ st := by
  simp [entryFor]

/-- With one entry at most of a kind in a list, a member of the kind is the one found. -/
theorem find?_unique {α : Type} {l : List α} {p : α → Bool} {x : α} (one : (l.filter p).length ≤ 1) (mem : x ∈ l)
    (hx : p x = true) : l.find? p = some x := by
  have here : x ∈ l.filter p := List.mem_filter.mpr ⟨mem, hx⟩
  rw [← List.head?_filter]
  match h : l.filter p, here, one with
  | [y], here, _ => simp_all
  | _ :: _ :: _, _, one => simp at one

/-- With one WAITING entry for a line, a member that waits for it is the one found. -/
theorem entryFor_waiting (one : OneWaitingPerLine s) (mem : e ∈ s.post.entries) (waits : e.state = .waiting) :
    entryFor s.post .waiting e.line = some e := by
  have here : e.waitsFor e.line = true := by simp [PostEntry.waitsFor, waits]
  exact find?_unique (one e.line) mem here

/-- An entry that alone is of its state for its line is the one found. -/
theorem entryFor_of_only {p : PostQueue} (mem : e ∈ p.entries)
    (only : ∀ x ∈ p.entries, x.line = e.line → x.state = e.state → x = e) : entryFor p e.state e.line = some e := by
  cases h : entryFor p e.state e.line with
  | none => exact (entryFor_none.mp h e mem rfl rfl).elim
  | some x =>
    obtain ⟨hx, hl, hs⟩ := entryFor_mem h
    rw [only x hx hl hs]

/-- The overlay depends on the entry's mask and bytes for the address alone. -/
theorem overlaidBy_congr {st : PostState} {a : Nat} (find : entryFor t.post st (lineOf a) = entryFor s.post st (lineOf a))
    (bytes : ∀ x, entryFor s.post st (lineOf a) = some x → t.bytesOf x.slot = s.bytesOf x.slot) (v : Byte) :
    t.overlaidBy st a v = s.overlaidBy st a v := by
  rw [overlaidBy_eq, overlaidBy_eq, find]
  cases h : entryFor s.post st (lineOf a) with
  | none => rfl
  | some x => simp only [bytes x h]

theorem lineOf_mod (a : Nat) : lineOf a % 16 = 0 := by
  unfold lineOf
  omega

theorem lineOf_add (aligned : line % 16 = 0) (i : Fin 16) : lineOf (line + i.val) = line := by
  unfold lineOf
  omega

theorem offsetOf_add (aligned : line % 16 = 0) (i : Fin 16) : offsetOf (line + i.val) = i.val := by
  unfold offsetOf
  omega

theorem lineAt_add (l : Line) (aligned : line % 16 = 0) (i : Fin 16) : Line.at l (line + i.val) = l[i] := by
  simp only [Line.at, offsetOf_add aligned i]
  rfl

/-! ### Acceptance (R76, R86, R88) -/

/-- What keeps the bytes of the posts apart from the slot that comes in and from the FILLED entries (R21). -/
structure PostsApart (s : State) (k : SlotId) : Prop where
  incoming : ∀ e ∈ s.post.entries, e.slot ≠ k
  apart : (s.post.entries.map PostEntry.slot).Nodup
  filled : ∀ (n : StreamId) (r : ReadStream) (e : ReadEntry), s.streams[n] = .read r → e ∈ r.queue →
    e.state = .filled → e.slot ≠ k ∧ ∀ x ∈ s.post.entries, x.slot ≠ e.slot

theorem not_filledFor_post (apart : PostsApart s k) (mem : e ∈ s.post.entries) (line : Nat) :
    ¬ FilledFor s line e.slot := by
  rintro ⟨n, r, x, read, hx, -, filled, slot⟩
  exact (apart.filled n r x read hx filled).2 e mem slot.symm

theorem not_filledFor_incoming (apart : PostsApart s k) (line : Nat) : ¬ FilledFor s line k := by
  rintro ⟨n, r, x, read, hx, -, filled, slot⟩
  exact (apart.filled n r x read hx filled).1 slot

/-- Two posts of one slot are one post. -/
theorem post_eq_of_slot (nodup : (s.post.entries.map PostEntry.slot).Nodup) {x y : PostEntry}
    (hx : x ∈ s.post.entries) (hy : y ∈ s.post.entries) (same : x.slot = y.slot) : x = y :=
  List.inj_on_of_nodup_map nodup hx hy same

@[simp] theorem patchFilled_post (s : State) (line : Nat) (mask : ByteMask) (bytes : Line) :
    (s.patchFilled line mask bytes).post = s.post := by rw [patchFilled_keeps]

@[simp] theorem patchFilled_memory (s : State) (line : Nat) (mask : ByteMask) (bytes : Line) :
    (s.patchFilled line mask bytes).memory = s.memory := by rw [patchFilled_keeps]

@[simp] theorem patchFilled_streams (s : State) (line : Nat) (mask : ByteMask) (bytes : Line) :
    (s.patchFilled line mask bytes).streams = s.streams := by rw [patchFilled_keeps]

@[simp] theorem mergePost_post (s : State) (e : PostEntry) (line : Nat) (mask : ByteMask) (k : SlotId) :
    (s.mergePost e line mask k).post = s.post.merge line mask := by simp [State.mergePost]

@[simp] theorem appendPost_post (s : State) (line : Nat) (mask : ByteMask) (k : SlotId) :
    (s.appendPost line mask k).post = s.post.append line mask k := by simp [State.appendPost]

/-- The bytes of a slot that no FILLED entry for the line is in, after a merge. -/
theorem bytesOf_mergePost {j : SlotId} (h : ¬ FilledFor s line j) :
    (s.mergePost e line mask k).bytesOf j =
      if j = e.slot then overlay (s.bytesOf e.slot) (s.bytesOf k) mask else s.bytesOf j := by
  unfold State.mergePost
  rw [bytesOf_patchFilled_other (by exact h), bytesOf_release, bytesOf_withPost, bytesOf_fillSlot]

theorem bytesOf_appendPost {j : SlotId} (h : ¬ FilledFor s line j) :
    (s.appendPost line mask k).bytesOf j = s.bytesOf j := by
  unfold State.appendPost
  rw [bytesOf_patchFilled_other (by exact h), bytesOf_own, bytesOf_withPost]

/-- A merge changes the mask of the WAITING entries for its line alone. -/
theorem entryFor_merge (p : PostQueue) (mask : ByteMask) (st : PostState) (line l : Nat) :
    entryFor (p.merge line mask) st l = (entryFor p st l).map fun e =>
      if e.waitsFor line then { e with mask := e.mask ||| mask } else e := by
  simp only [entryFor, PostQueue.merge, List.find?_map]
  congr 1
  refine List.find?_congr fun x _ => ?_
  simp only [Function.comp_apply]
  split <;> rfl

theorem entryFor_merge_other {l : Nat} {st : PostState} (p : PostQueue) (mask : ByteMask)
    (other : l ≠ line ∨ st = .retiring) : entryFor (p.merge line mask) st l = entryFor p st l := by
  rw [entryFor_merge]
  cases h : entryFor p st l with
  | none => rfl
  | some x =>
    obtain ⟨-, hl, hs⟩ := entryFor_mem h
    refine congrArg some (if_neg ?_)
    rcases other with other | retiring
    · simp [PostEntry.waitsFor, hl, other]
    · simp [PostEntry.waitsFor, hs, retiring]

theorem entryFor_append_other {l : Nat} {st : PostState} (p : PostQueue) (mask : ByteMask) (k : SlotId)
    (other : l ≠ line ∨ st = .retiring) : entryFor (p.append line mask k) st l = entryFor p st l := by
  have tail : ¬ (line = l ∧ PostState.waiting = st) := by
    rintro ⟨same, waiting⟩
    rcases other with other | retiring
    · exact other same.symm
    · rw [retiring] at waiting
      cases waiting
  simp [entryFor, PostQueue.append, List.find?_append, tail]

theorem entryFor_append_same {p : PostQueue} (mask : ByteMask) (k : SlotId) (none : entryFor p .waiting line = none) :
    entryFor (p.append line mask k) .waiting line =
      some { line := line, mask := mask, slot := k, state := .waiting, tag := false } := by
  rw [entryFor] at none
  simp only [entryFor, PostQueue.append, List.find?_append, none]
  simp

/-- The overlay of the RETIRING entries, and the WAITING ones of another line, stay at a merge. -/
theorem overlaidBy_mergePost_other {st : PostState} {a : Nat} (apart : PostsApart s k) (mem : e ∈ s.post.entries)
    (waits : e.line = line ∧ e.state = .waiting) (other : lineOf a ≠ line ∨ st = .retiring) (v : Byte) :
    (s.mergePost e line mask k).overlaidBy st a v = s.overlaidBy st a v := by
  refine overlaidBy_congr (by rw [mergePost_post, entryFor_merge_other _ _ other]) (fun x hx => ?_) v
  obtain ⟨hx, hl, hs⟩ := entryFor_mem hx
  rw [bytesOf_mergePost (not_filledFor_post apart hx line), if_neg fun same => ?_]
  obtain rfl := post_eq_of_slot apart.apart hx mem same
  rcases other with other | retiring
  · exact other (hl.symm.trans waits.1)
  · rw [waits.2, retiring] at hs
    cases hs

theorem overlaidBy_appendPost_other {st : PostState} {a : Nat} (apart : PostsApart s k)
    (other : lineOf a ≠ line ∨ st = .retiring) (v : Byte) :
    (s.appendPost line mask k).overlaidBy st a v = s.overlaidBy st a v :=
  overlaidBy_congr (by rw [appendPost_post, entryFor_append_other _ _ _ other])
    (fun _ hx => bytesOf_appendPost (not_filledFor_post apart (entryFor_mem hx).1 line)) v

theorem currentValue_eq (s : State) (a : Nat) :
    s.currentValue a = s.overlaidBy .waiting a (s.overlaidBy .retiring a (Memory.read s.memory a)) := rfl

theorem mergePost_memory (s : State) (e : PostEntry) (line : Nat) (mask : ByteMask) (k : SlotId) :
    (s.mergePost e line mask k).memory = s.memory := by simp [State.mergePost]

theorem appendPost_memory (s : State) (line : Nat) (mask : ByteMask) (k : SlotId) :
    (s.appendPost line mask k).memory = s.memory := by simp [State.appendPost]

/-- Merging a post (R86). -/
theorem currentValue_mergePost (aligned : line % 16 = 0) (apart : PostsApart s k) (waits : s.post.waitingFor line = some e) :
    (∀ i : Fin 16, (s.mergePost e line mask k).currentValue (line + i.val) =
      if mask.getLsbD i.val then (s.bytesOf k)[i] else s.currentValue (line + i.val)) ∧
    ∀ a, lineOf a ≠ line → (s.mergePost e line mask k).currentValue a = s.currentValue a := by
  obtain ⟨mem, hl, hs⟩ := entryFor_mem waits
  refine ⟨fun i => ?_, fun a other => ?_⟩
  · have here : entryFor s.post .waiting (lineOf (line + i.val)) = some e := (lineOf_add aligned i).symm ▸ waits
    have merged : entryFor (s.mergePost e line mask k).post .waiting (lineOf (line + i.val)) =
        some { e with mask := e.mask ||| mask } := by
      rw [mergePost_post, entryFor_merge, here]
      exact congrArg some (if_pos (by simp [PostEntry.waitsFor, hl, hs]))
    rw [currentValue_eq, overlaidBy_some merged, bytesOf_mergePost (not_filledFor_post apart mem line), if_pos rfl,
      overlaidBy_mergePost_other apart mem ⟨hl, hs⟩ (.inr rfl), mergePost_memory, currentValue_eq s,
      overlaidBy_some here, offsetOf_add aligned i, lineAt_add _ aligned i, lineAt_add _ aligned i, getElem_overlay,
      BitVec.getLsbD_or]
    cases mask.getLsbD i.val <;> simp
  · rw [currentValue_eq, overlaidBy_mergePost_other apart mem ⟨hl, hs⟩ (.inl other),
      overlaidBy_mergePost_other apart mem ⟨hl, hs⟩ (.inl other), mergePost_memory, currentValue_eq s]

/-- A post taken as a new entry (R86). -/
theorem currentValue_appendPost (aligned : line % 16 = 0) (apart : PostsApart s k)
    (none : s.post.waitingFor line = none) :
    (∀ i : Fin 16, (s.appendPost line mask k).currentValue (line + i.val) =
      if mask.getLsbD i.val then (s.bytesOf k)[i] else s.currentValue (line + i.val)) ∧
    ∀ a, lineOf a ≠ line → (s.appendPost line mask k).currentValue a = s.currentValue a := by
  refine ⟨fun i => ?_, fun a other => ?_⟩
  · have here : entryFor s.post .waiting (lineOf (line + i.val)) = Option.none := (lineOf_add aligned i).symm ▸ none
    have appended : entryFor (s.appendPost line mask k).post .waiting (lineOf (line + i.val)) =
        some { line := line, mask := mask, slot := k, state := .waiting, tag := false } := by
      rw [appendPost_post, lineOf_add aligned i, entryFor_append_same mask k none]
    rw [currentValue_eq, overlaidBy_some appended, bytesOf_appendPost (not_filledFor_incoming apart line),
      overlaidBy_appendPost_other apart (.inr rfl), appendPost_memory, currentValue_eq s, overlaidBy_none here,
      offsetOf_add aligned i, lineAt_add _ aligned i]
  · rw [currentValue_eq, overlaidBy_appendPost_other apart (.inl other),
      overlaidBy_appendPost_other apart (.inl other), appendPost_memory, currentValue_eq s]

/-- An accepted post's marked bytes become the current value of its line, and no other value changes (R86). -/
theorem currentValue_acceptPost (aligned : line % 16 = 0) (apart : PostsApart s k)
    (taken : s.acceptPost line mask k = some t) :
    (∀ i : Fin 16, t.currentValue (line + i.val) =
      if mask.getLsbD i.val then (s.bytesOf k)[i] else s.currentValue (line + i.val)) ∧
    ∀ a, lineOf a ≠ line → t.currentValue a = s.currentValue a := by
  rcases acceptPost_cases taken with ⟨e, waits, rfl⟩ | ⟨none, -, rfl⟩
  · exact currentValue_mergePost aligned apart waits
  · exact currentValue_appendPost aligned apart none

/-! ### The grant to RETIRING (R79, R86) -/

/-- The oldest WAITING entry and what stands before and after it. -/
theorem retireOldest_split {p : PostQueue} (oldest : p.oldestWaiting = some e) : ∃ older newer,
    p.entries = older ++ e :: newer ∧ e.state = .waiting ∧ (∀ x ∈ older, x.state ≠ .waiting) ∧
    p.retireOldest.entries = older ++ { e with state := .retiring } :: newer := by
  obtain ⟨waits, older, newer, split, before⟩ := List.find?_eq_some_iff_append.mp oldest
  simp only [decide_eq_true_eq, Bool.not_eq_true', decide_eq_false_iff_not] at waits before
  refine ⟨older, newer, split, waits, before, ?_⟩
  rw [PostQueue.retireOldest, split]
  exact updateFirst_first _ _ _ _ _ (by simpa using before) (by simpa using waits)

/-- The grant of the oldest WAITING entry leaves the entries of every other line. -/
theorem entryFor_retireOldest_other {p : PostQueue} {st : PostState} {l : Nat} (oldest : p.oldestWaiting = some e)
    (other : l ≠ e.line) : entryFor p.retireOldest st l = entryFor p st l := by
  obtain ⟨older, newer, split, -, -, retired⟩ := retireOldest_split oldest
  simp [entryFor, retired, split, List.find?_append, other.symm]

/-- The grant of the oldest WAITING entry leaves the current value where no entry for its line was RETIRING (R86). -/
theorem currentValue_retireOldest (one : OneWaitingPerLine s) (oldest : s.post.oldestWaiting = some e)
    (allWaiting : ∀ x ∈ s.post.entries, x.line = e.line → x.state = .waiting) (a : Nat) :
    (s.withPost s.post.retireOldest).currentValue a = s.currentValue a := by
  by_cases other : lineOf a = e.line
  · obtain ⟨older, newer, split, waits, before, retired⟩ := retireOldest_split oldest
    have mem : e ∈ s.post.entries := split ▸ List.mem_append_cons_self
    have found : entryFor s.post .waiting (lineOf a) = some e := other ▸ entryFor_waiting one mem waits
    have noRetiring : entryFor s.post .retiring (lineOf a) = none := entryFor_none.mpr fun x hx hl => by
      rw [allWaiting x hx (hl.trans other)]
      decide
    have count := one e.line
    have rest (x) (hx : x ∈ older ∨ x ∈ newer) : x.line ≠ e.line := fun same => by
      have waitsFor : x.waitsFor e.line = true := by
        have := allWaiting x (split ▸ by simp only [List.mem_append, List.mem_cons]; tauto) same
        simp [PostEntry.waitsFor, same, this]
      have here : e.waitsFor e.line = true := by simp [PostEntry.waitsFor, waits]
      rw [split] at count
      simp only [List.filter_append, List.filter_cons, here, if_true, List.length_append, List.length_cons] at count
      have counts (l : List PostEntry) (hx : x ∈ l) : 0 < (l.filter fun y => y.waitsFor e.line).length :=
        List.length_pos_of_mem (List.mem_filter.mpr ⟨hx, waitsFor⟩)
      rcases hx with hx | hx
      · have := counts older hx
        omega
      · have := counts newer hx
        omega
    have nowRetiring : entryFor (s.withPost s.post.retireOldest).post .retiring (lineOf a) =
        some { e with state := .retiring } := by
      rw [withPost_post, other]
      refine entryFor_of_only (e := { e with state := .retiring }) (by rw [retired]; simp) fun x hx hl _ => ?_
      rw [retired, List.mem_append, List.mem_cons] at hx
      rcases hx with hx | rfl | hx
      · exact (rest x (.inl hx) hl).elim
      · rfl
      · exact (rest x (.inr hx) hl).elim
    have noWaiting : entryFor (s.withPost s.post.retireOldest).post .waiting (lineOf a) = none := by
      rw [withPost_post]
      refine entryFor_none.mpr fun x hx hl => ?_
      rw [retired, List.mem_append, List.mem_cons] at hx
      rcases hx with hx | rfl | hx
      · exact (rest x (.inl hx) (hl.trans other)).elim
      · exact nofun
      · exact (rest x (.inr hx) (hl.trans other)).elim
    rw [currentValue_eq, overlaidBy_none noWaiting, overlaidBy_some nowRetiring, currentValue_eq s,
      overlaidBy_some found, overlaidBy_none noRetiring]
    rfl
  · have same (st : PostState) (v : Byte) : (s.withPost s.post.retireOldest).overlaidBy st a v = s.overlaidBy st a v :=
      overlaidBy_congr (s := s) (t := s.withPost s.post.retireOldest)
        (entryFor_retireOldest_other oldest other) (fun _ _ => rfl) v
    rw [currentValue_eq, same, same, withPost_memory, currentValue_eq s]

/-! ### The store's completion (R79, R86) -/

/-- The removal of a stored entry leaves the WAITING entries, and the RETIRING ones of other lines. -/
theorem entryFor_removeStored_other {p : PostQueue} {st : PostState} {l : Nat}
    (other : ∀ x ∈ p.entries, x.storesFrom k = true → x.line = l → x.state ≠ st) :
    entryFor (p.removeStored k) st l = entryFor p st l := by
  rw [entryFor, PostQueue.removeStored, List.find?_filter, entryFor]
  refine List.find?_congr fun x hx => ?_
  cases stores : x.storesFrom k with
  | false => simp
  | true =>
    have := other x hx stores
    simpa using this

theorem storesFrom_iff {x : PostEntry} : x.storesFrom k = true ↔ x.slot = k ∧ x.state = .retiring := by
  simp [PostEntry.storesFrom]

theorem line_range_iff {a : Nat} (aligned : line % 16 = 0) : line ≤ a ∧ a < line + 16 ↔ lineOf a = line := by
  unfold lineOf
  omega

/-- The byte at an address of a line, by its offset from the line. -/
theorem lineAt_eq {l : Line} {a : Nat} (aligned : line % 16 = 0) (inside : line ≤ a ∧ a < line + 16) :
    Line.at l a = l[a - line]'(by omega) := by
  have offset : offsetOf a = a - line := by
    unfold offsetOf
    omega
  simp only [Line.at, offset]

theorem offsetOf_eq_sub {a : Nat} (aligned : line % 16 = 0) (inside : line ≤ a ∧ a < line + 16) : offsetOf a = a - line := by
  unfold offsetOf
  omega

/-- The memory after a store of a line under a mask, by the address's line and offset (R79). -/
theorem read_writeLine_other {m : Memory} (canonical : Memory.wf m = true) (aligned : line % 16 = 0) {a : Nat}
    (other : lineOf a ≠ line) (mask : ByteMask) (bytes : Line) :
    Memory.read (Memory.writeLine m line mask bytes) a = Memory.read m a := by
  rw [read_writeLine canonical, dif_neg (mt (line_range_iff aligned).mp other)]

theorem read_writeLine_same {m : Memory} (canonical : Memory.wf m = true) (aligned : line % 16 = 0) {a : Nat}
    (same : lineOf a = line) (mask : ByteMask) (bytes : Line) :
    Memory.read (Memory.writeLine m line mask bytes) a =
      if mask.getLsbD (offsetOf a) then Line.at bytes a else Memory.read m a := by
  have inside := (line_range_iff aligned).mpr same
  rw [read_writeLine canonical, dif_pos inside, offsetOf_eq_sub aligned inside, lineAt_eq aligned inside]

/-- The completion of the store of the one RETIRING entry of its line and slot leaves the current value (R86). -/
theorem currentValue_store {o : OwnerRecord} (canonical : MemoryCanonical s) (mem : e ∈ s.post.entries)
    (retiring : e.state = .retiring) (hl : o.line = e.line) (hm : o.mask = e.mask) (hk : o.slot = e.slot)
    (aligned : e.line % 16 = 0)
    (only : ∀ x ∈ s.post.entries, x.state = .retiring → x.slot = e.slot ∨ x.line = e.line → x = e) (a : Nat) :
    ((s.store o).removeStored o.slot).currentValue a = s.currentValue a := by
  have stored (x) (hx : x ∈ s.post.entries) (stores : x.storesFrom o.slot = true) : x = e := by
    obtain ⟨slot, state⟩ := storesFrom_iff.mp stores
    exact only x hx state (.inl (slot.trans hk))
  have memory : ((s.store o).removeStored o.slot).memory =
      Memory.writeLine s.memory o.line o.mask (s.bytesOf o.slot) := rfl
  have bytes (x : PostEntry) : ((s.store o).removeStored o.slot).bytesOf x.slot = s.bytesOf x.slot :=
    bytesOf_own ..
  have post : ((s.store o).removeStored o.slot).post = s.post.removeStored o.slot := rfl
  have waiting (v : Byte) : ((s.store o).removeStored o.slot).overlaidBy .waiting a v = s.overlaidBy .waiting a v :=
    overlaidBy_congr (post ▸ entryFor_removeStored_other fun x hx stores _ => by
      rw [stored x hx stores, retiring]
      decide) (fun x _ => bytes x) v
  rw [currentValue_eq, waiting, memory, currentValue_eq s]
  congr 1
  by_cases same : lineOf a = e.line
  · have before : entryFor s.post .retiring (lineOf a) = some e := by
      rw [same, ← retiring]
      exact entryFor_of_only mem fun x hx hl hs => only x hx (hs.trans retiring) (.inr hl)
    have after : entryFor ((s.store o).removeStored o.slot).post .retiring (lineOf a) = none := by
      rw [post]
      refine entryFor_none.mpr fun x hx line state => ?_
      obtain ⟨hx, kept⟩ := List.mem_filter.mp hx
      obtain rfl := only x hx state (.inr (line.trans same))
      simp [PostEntry.storesFrom, hk, retiring] at kept
    rw [overlaidBy_none after, overlaidBy_some before, ← hm, ← hk,
      read_writeLine_same canonical (hl ▸ aligned) (same.trans hl.symm)]
  · rw [read_writeLine_other canonical (hl ▸ aligned) fun here => same (here.trans hl)]
    refine overlaidBy_congr (post ▸ entryFor_removeStored_other fun x hx stores line => ?_) (fun x _ => bytes x) _
    rw [stored x hx stores] at line
    exact (same line.symm).elim

/-! ### Merge-on-return (R90) -/

/-- A merged return is the current value of its line where no entry for it is RETIRING (R86, R90). -/
theorem mergeOnReturn_eq_currentValue (aligned : line % 16 = 0)
    (noRetiring : ∀ x ∈ s.post.entries, x.line = line → x.state = .waiting) (i : Fin 16) :
    (s.mergeOnReturn line (Memory.readLine s.memory line))[i] = s.currentValue (line + i.val) := by
  have none : entryFor s.post .retiring (lineOf (line + i.val)) = Option.none := by
    rw [lineOf_add aligned i]
    refine entryFor_none.mpr fun x hx hl => ?_
    rw [noRetiring x hx hl]
    decide
  rw [getElem_mergeOnReturn, currentValue_eq, overlaidBy_none none, overlaidBy_eq, lineOf_add aligned i,
    ← waitingFor_eq, getElem_readLine]
  cases s.post.waitingFor line with
  | none => rfl
  | some e => simp only [offsetOf_add aligned i, lineAt_add _ aligned i]

/-- Settles O54: acceptance, the grant to RETIRING, the store's completion and the merged return. -/
theorem currentValueFollowsAcceptedPosts : Obligations.CurrentValueFollowsAcceptedPosts := by
  unfold Obligations.CurrentValueFollowsAcceptedPosts
  refine ⟨fun line mask k s t aligned _ incoming apart filled taken => ?_, fun e s a one oldest allWaiting => ?_,
    fun e o s a canonical mem retiring hl hm hk aligned only => ?_, fun line s i aligned noRetiring => ?_⟩
  · exact currentValue_acceptPost aligned ⟨incoming, apart, filled⟩ taken
  · exact currentValue_retireOldest one oldest allWaiting a
  · exact currentValue_store canonical mem retiring hl hm hk aligned only a
  · exact mergeOnReturn_eq_currentValue aligned noRetiring i

end Sys2Proof.Proofs.Coherence

/-! PROOFS. What one step can do to the requesters, the slots, the operations and the bank table, as a list of changes:
the laws of the machine are then proved change by change. -/

namespace Sys2Proof.Proofs.Changes

open Sys2Proof Sys2Proof.Machine Sys2Proof.Safety Sys2Proof.Laws
open Sys2Proof.Proofs.LinePool Sys2Proof.Proofs.Coherence

/-! ### The part of the state that the laws speak of -/

/-- The requesters, the slots, the claims, the bank states with their owners, and the memory: what the laws of slots,
operations, queues, banks and coherence speak of. -/
structure Vital where
  streams : Vector Stream 8
  slots : Vector Slot 48
  claims : Vector (Option Claim) 9
  entries : List PostEntry
  engine : Engine
  banks : BankId → BankState × Option OwnerRecord
  memoryState : MemoryState
  wide : WideStep
  dataBus : Option BankId
  memory : Memory
  debt : Nat
  command : CommandState

def vital (s : State) : Vital :=
  { streams := s.streams, slots := s.pool.slots, claims := s.pool.claims, entries := s.post.entries, engine := s.engine,
    banks := fun b => (s.seq.banks[b].state, s.seq.banks[b].owner), memoryState := s.seq.memory, wide := s.seq.wide,
    dataBus := s.seq.dataBus, memory := s.memory, debt := s.renewal.debt, command := s.port.state }

/-- The banks are CLOSED and unowned. -/
def AllIdle (s : State) : Prop := ∀ b : BankId, s.seq.banks[b].state = .closed ∧ s.seq.banks[b].owned = false

/-- A change of the bank states, the data bus, the memory-wide step, the debt or the command state that leaves the
requesters, the slots, the owners and the memory. -/
structure Aside (s t : State) : Prop where
  streams : t.streams = s.streams
  slots : t.pool.slots = s.pool.slots
  claims : t.pool.claims = s.pool.claims
  entries : t.post.entries = s.post.entries
  engine : t.engine = s.engine
  memory : t.memory = s.memory
  owners : ∀ b : BankId, t.seq.banks[b].owner = s.seq.banks[b].owner
  stores : ∀ b : BankId, t.seq.banks[b].state = .writing ∨ t.seq.banks[b].state = .recovering →
    (s.seq.banks[b].state = .writing ∨ s.seq.banks[b].state = .recovering) ∨
      ∃ o : OwnerRecord, s.seq.banks[b].owner = some o ∧ o.op = .store
  command : t.port.state = .resetting → s.port.state = .resetting
  debt : s.renewal.debt ≤ 8 → t.renewal.debt ≤ 8
  busy : ∀ b : BankId, busyBank t.seq.banks[b] → busyBank s.seq.banks[b] ∨ s.seq.banks[b].owned = true
  bus : (∀ b : BankId, bursting s.seq.banks[b] → s.seq.dataBus = some b) →
    ∀ b : BankId, bursting t.seq.banks[b] → t.seq.dataBus = some b
  closed : ∀ b : BankId, s.seq.banks[b].state = .closed → s.seq.banks[b].owned = false → t.seq.banks[b].state = .closed
  wide : t.seq.wide ≠ .none → s.seq.wide ≠ .none ∨
    s.seq.memory ≠ .started ∧ (∀ b : BankId, s.seq.banks[b].state = .closed) ∨ AllIdle s
  started : t.seq.memory ≠ .started → s.seq.memory ≠ .started

/-! ### Streams and the Move Engine, what they hold aside -/

/-- A stream that waits for a slot holds no assembly (R60). -/
def WaitsEmpty (c : Stream) : Prop := ∀ w, c = .write w → w.state = .blocked .noSlot → w.assembly = none

/-- The line addresses that a stream holds are line addresses (R2). -/
structure StreamAligned (c : Stream) : Prop where
  cursor : ∀ r, c = .read r → r.fetchCursor % 16 = 0
  entries : ∀ e ∈ c.entries, e.line % 16 = 0
  assembly : ∀ w a, c = .write w → w.assembly = some a → a.line % 16 = 0

/-- A stream's context changes, and the slots that it holds do not; one that waits for a slot holds none. -/
structure StreamTurns (c d : Stream) : Prop where
  entries : d.entries = c.entries
  assembly : assemblySlots d = assemblySlots c ∨
    assemblySlots d = [] ∧ ∃ w, c = .write w ∧ w.state = .blocked .noSlot
  lawful : StreamLawful c → StreamLawful d
  empty : WaitsEmpty c → WaitsEmpty d
  aligned : StreamAligned c → StreamAligned d

/-- A stream's context in which no slot is held and for which none waits. -/
structure StreamEmpty (c : Stream) : Prop where
  entries : c.entries = []
  assembly : assemblySlots c = []
  lawful : StreamLawful c
  aligned : ∀ r, c = .read r → r.fetchCursor % 16 = 0

/-- The Move Engine changes, and the slots that it holds and the fetches that it waits for do not. -/
structure EngineTurns (e f : Engine) : Prop where
  buffers : ∀ k : Fin 2, f.buffers[k].map SourceBuffer.slot = e.buffers[k].map SourceBuffer.slot
  inFlight : ∀ (k : Fin 2) (x : SourceBuffer), x.state = .inFlight → (f.buffers[k] = some x ↔ e.buffers[k] = some x)
  dest : f.dest.map DestLine.slot = e.dest.map DestLine.slot
  aligned : (∀ d, e.dest = some d → d.line % 16 = 0) → ∀ d, f.dest = some d → d.line % 16 = 0
  jobs : e.jobs.length ≤ 4 → f.jobs.length ≤ 4
  completions : e.completions.length ≤ 4 → f.completions.length ≤ 4

/-! ### The changes -/

/-- The claim of a claimant leaves the list. -/
def unclaimed (s : State) (c : Fin 9) : State :=
  s.withPool { s.pool with claims := s.pool.claims.set c.val none c.isLt }

/-- The merged line of a fetch's return (R90). -/
def returned (s : State) (o : OwnerRecord) : Line := s.mergeOnReturn o.line (Memory.readLine s.memory o.line)

/-- The bank of an operation that has ended is released (R112, R115). -/
def released (s : State) (b : BankId) : State := s.freeBus.releaseBank b

/-- One change of what the laws speak of. Each constructor says what must stand in the state for it. -/
inductive Change : State → State → Prop
  | aside {s t : State} (h : Aside s t) : Change s t
  | tagAll (s : State) : Change s (s.withPost s.post.tagAll)
  | stream {s : State} {n : StreamId} {c : Stream}
      (awake : s.port.state = .resetting → s.streams[n] ≠ .closed ∨ c = .closed) (turns : StreamTurns s.streams[n] c) :
      Change s (s.setStream n c)
  | letGo {s : State} {n : StreamId} {r : ReadStream} {e : ReadEntry} {rest : List ReadEntry}
      (read : s.streams[n] = .read r) (queue : r.queue = e :: rest) :
      Change s ((s.releaseEntry e).setStream n (.read { r with queue := rest }))
  | append {s : State} {n : StreamId} {r : ReadStream} {k : SlotId} (read : s.streams[n] = .read r)
      (need : r.fetchNeed = true) (free : s.pool.slots[k].owner = .free) :
      Change s ((s.own k (.read n)).setStream n (.read (r.append k)))
  | gather {s : State} {n : StreamId} {w : WriteStream} {k : SlotId} (write : s.streams[n] = .write w)
      (empty : w.assembly = none ∨ w.state = .blocked .noSlot) (free : s.pool.slots[k].owner = .free) :
      Change s ((s.own k (.assembly n)).setStream n (.write (w.withAssembly k)))
  | dropAssembly {s : State} {n : StreamId} {w : WriteStream} {a : Assembly} {c : Stream}
      (write : s.streams[n] = .write w) (assembly : w.assembly = some a) (empty : StreamEmpty c) :
      Change s ((s.release a.slot).setStream n c)
  | fill {s : State} {o : Owner} {k : SlotId} (l : Line) (held : k ∈ holderSlots s o)
      (kind : (∃ n, o = .assembly n) ∨ o = .jobDest) : Change s (s.fillSlot k l)
  | postAssembly {s t : State} {n : StreamId} {w : WriteStream} {a : Assembly} {mask : ByteMask} {c : Stream}
      (write : s.streams[n] = .write w) (assembly : w.assembly = some a)
      (taken : s.acceptPost a.line mask a.slot = some t) (empty : StreamEmpty c) : Change s (t.setStream n c)
  | postDest {s t : State} {d : DestLine} {line : Nat} {mask : ByteMask} {e : Engine} (dest : s.engine.dest = some d)
      (aligned : d.line % 16 = 0 → line % 16 = 0) (taken : s.acceptPost line mask d.slot = some t)
      (turns : EngineTurns { s.engine with dest := none } e) : Change s (t.withEngine e)
  | engine {s : State} {e : Engine} (awake : s.port.state = .resetting → s.engine ≠ Engine.reset)
      (turns : EngineTurns s.engine e) : Change s (s.withEngine e)
  | dropBuffer {s : State} {k : Fin 2} {x : SourceBuffer} (buffer : s.engine.buffers[k] = some x)
      (landed : x.state ≠ .inFlight) : Change s ((s.release x.slot).withEngine
        { s.engine with buffers := s.engine.buffers.set k.val none })
  | dropDest {s : State} {d : DestLine} (dest : s.engine.dest = some d) :
      Change s ((s.release d.slot).withEngine { s.engine with dest := none })
  | takeSource {s : State} {c : Fin 9} {x : Claim} {i : Fin 2} {k : SlotId} (claim : s.pool.claims[c] = some x)
      (purpose : x.purpose = .jobSource i) (free : s.pool.slots[k].owner = .free) :
      Change s (((unclaimed s c).own k (.jobSource i)).withEngine { s.engine with
        buffers := s.engine.buffers.set i.val (some { slot := k, line := none, state := .empty }) })
  | takeDest {s : State} {c : Fin 9} {x : Claim} {d : DestLine} (claim : s.pool.claims[c] = some x)
      (purpose : x.purpose = .jobDest) (free : s.pool.slots[d.slot].owner = .free) (aligned : d.line % 16 = 0) :
      Change s (((unclaimed s c).own d.slot .jobDest).withEngine { s.engine with dest := some d })
  | claims (s : State) : Change s (s.withPool { s.pool with claims := s.claimList })
  | unclaim (s : State) (c : Fin 9) : Change s (unclaimed s c)
  | grant {s : State} {p : Fin 10} {q : Request} (presented : s.requestAt p = some q) (eligible : s.eligible q = true) :
      Change s (s.grantRequest p q)
  | returnDiscarded {s : State} {b : BankId} {o : OwnerRecord} (reading : s.seq.banks[b].state = .reading)
      (owner : s.seq.banks[b].owner = some o) (op : o.op = .fetch) (discard : o.discard = true) :
      Change s (released (s.release o.slot) b)
  | returnEntry {s : State} {b : BankId} {o : OwnerRecord} {n : StreamId} {r : ReadStream}
      (reading : s.seq.banks[b].state = .reading) (owner : s.seq.banks[b].owner = some o) (op : o.op = .fetch)
      (kept : o.discard = false) (position : o.position.val = n.val) (read : s.streams[n] = .read r) :
      Change s (released ((s.fillSlot o.slot (returned s o)).setStream n
        (.read (r.passEntry o.slot .inFlight .filled))) b)
  | returnBuffer {s : State} {b : BankId} {o : OwnerRecord} (reading : s.seq.banks[b].state = .reading)
      (owner : s.seq.banks[b].owner = some o) (op : o.op = .fetch) (kept : o.discard = false)
      (position : ¬ o.position.val < 8) : Change s (released (s.bufferReturn o.slot (returned s o)) b)
  | returnLost {s : State} {b : BankId} {o : OwnerRecord} {n : StreamId} (reading : s.seq.banks[b].state = .reading)
      (owner : s.seq.banks[b].owner = some o) (op : o.op = .fetch) (kept : o.discard = false)
      (position : o.position.val = n.val) (other : ∀ r, s.streams[n] ≠ .read r) : Change s (released s b)
  | store {s : State} {b : BankId} {o : OwnerRecord} (recovering : s.seq.banks[b].state = .recovering)
      (owner : s.seq.banks[b].owner = some o) (op : o.op = .store) :
      Change s (((s.store o).removeStored o.slot).releaseBank b)
  | enterResetting (s : State) : Change s s.enterResetting
  | fall (s : State) : Change s s.fall
  | rise (s : State) : Change s s.rise

/-- A state is reached from another by changes alone. -/
abbrev Reaches : State → State → Prop := Relation.ReflTransGen Change

variable {s t u : State} {n : StreamId}

theorem EngineTurns.trans {e f g : Engine} (h : EngineTurns e f) (h' : EngineTurns f g) : EngineTurns e g where
  buffers k := (h'.buffers k).trans (h.buffers k)
  inFlight k x flying := (h'.inFlight k x flying).trans (h.inFlight k x flying)
  dest := h'.dest.trans h.dest
  aligned a := h'.aligned (h.aligned a)
  jobs a := h'.jobs (h.jobs a)
  completions a := h'.completions (h.completions a)

theorem Change.reaches (h : Change s t) : Reaches s t := .single h

/-- The bank states and owners stay: the data bus, the memory-wide step, the memory state, the debt and the command
state change, and none against the laws. -/
theorem Aside.of_banks
    (h : vital t = { vital s with
      memoryState := t.seq.memory, wide := t.seq.wide, dataBus := t.seq.dataBus, debt := t.renewal.debt
      command := t.port.state })
    (bus : (∀ b : BankId, bursting s.seq.banks[b] → s.seq.dataBus = some b) →
      ∀ b : BankId, bursting s.seq.banks[b] → t.seq.dataBus = some b)
    (command : t.port.state = .resetting → s.port.state = .resetting)
    (debt : s.renewal.debt ≤ 8 → t.renewal.debt ≤ 8)
    (wide : t.seq.wide ≠ .none → s.seq.wide ≠ .none ∨
      s.seq.memory ≠ .started ∧ (∀ b : BankId, s.seq.banks[b].state = .closed) ∨ AllIdle s)
    (started : t.seq.memory ≠ .started → s.seq.memory ≠ .started) : Aside s t := by
  simp only [vital, Vital.mk.injEq, funext_iff, Prod.mk.injEq, and_true, true_and] at h
  obtain ⟨streams, slots, claims, entries, engine, banks, memory⟩ := h
  have states (b : BankId) : t.seq.banks[b].state = s.seq.banks[b].state := (banks b).1
  exact {
    streams := streams, slots := slots, claims := claims, entries := entries, engine := engine, memory := memory
    owners := fun b => (banks b).2
    stores := fun b h => .inl (states b ▸ h)
    command := command
    debt := debt
    busy := fun b h => .inl (by simpa only [busyBank, states b] using h)
    bus := fun h b burst => bus h b (by simpa only [bursting, states b] using burst)
    closed := fun b h _ => states b ▸ h
    wide := wide
    started := started }

/-- Only the data bus, the debt and the command state change, and none against the laws. -/
theorem Aside.of_held
    (h : vital t = { vital s with dataBus := t.seq.dataBus, debt := t.renewal.debt, command := t.port.state })
    (bus : (∀ b : BankId, bursting s.seq.banks[b] → s.seq.dataBus = some b) →
      ∀ b : BankId, bursting s.seq.banks[b] → t.seq.dataBus = some b)
    (command : t.port.state = .resetting → s.port.state = .resetting)
    (debt : s.renewal.debt ≤ 8 → t.renewal.debt ≤ 8) : Aside s t := by
  have wide : t.seq.wide = s.seq.wide := congrArg Vital.wide h
  have memory : t.seq.memory = s.seq.memory := congrArg Vital.memoryState h
  refine .of_banks ?_ bus command debt (fun running => .inl (wide ▸ running)) fun stopped => memory ▸ stopped
  rw [h, wide, memory]
  rfl

theorem command_of_vital (h : vital t = vital s) : t.port.state = s.port.state := congrArg Vital.command h

theorem debt_of_vital (h : vital t = vital s) : t.renewal.debt = s.renewal.debt := congrArg Vital.debt h

theorem dataBus_of_vital (h : vital t = vital s) : t.seq.dataBus = s.seq.dataBus := congrArg Vital.dataBus h

theorem Aside.of_vital (h : vital t = vital s) : Aside s t := by
  refine .of_held ?_ (fun b => dataBus_of_vital h ▸ b) (fun c => command_of_vital h ▸ c) (fun d => debt_of_vital h ▸ d)
  rw [h, debt_of_vital h, command_of_vital h, dataBus_of_vital h]
  rfl

theorem reaches_of_vital (h : vital t = vital s) : Reaches s t := (Change.aside (.of_vital h)).reaches

/-- The free data bus is held for a bank. -/
theorem reaches_of_dataBus (h : vital t = { vital s with dataBus := t.seq.dataBus }) (free : s.seq.dataBus = none) :
    Reaches s t := by
  have command : t.port.state = s.port.state := congrArg Vital.command h
  have debt : t.renewal.debt = s.renewal.debt := congrArg Vital.debt h
  refine (Change.aside (.of_held ?_ (fun held b burst => ?_) (fun c => command ▸ c) fun d => debt ▸ d)).reaches
  · rw [h, debt, command]
    rfl
  · rw [free] at held
    cases held b burst

theorem Reaches.vital (h : Reaches s t) (same : vital u = vital t) : Reaches s u := h.trans (reaches_of_vital same)

theorem Reaches.flags (h : Reaches s t) (n : StreamId) (f : StreamFlags → StreamFlags) : Reaches s (t.mapFlags n f) :=
  h.vital rfl

theorem Reaches.answered (h : Reaches s t) (b : Bus) : Reaches s (t.withBus b) := h.vital rfl

/-- The command state becomes another than RESETTING. -/
theorem reaches_of_command (h : vital t = { vital s with command := t.port.state }) (awake : t.port.state ≠ .resetting) :
    Reaches s t := by
  have debt : t.renewal.debt = s.renewal.debt := congrArg Vital.debt h
  have dataBus : t.seq.dataBus = s.seq.dataBus := congrArg Vital.dataBus h
  refine (Change.aside (.of_held ?_ (fun held => dataBus ▸ held) (fun c => (awake c).elim) fun d => debt ▸ d)).reaches
  rw [h, debt, dataBus]
  rfl

/-- A command's completion leaves all but the command state (R164). -/
theorem Reaches.complete (h : Reaches s t) (r : ResultCode) : Reaches s (t.complete r) :=
  h.trans (reaches_of_command rfl nofun)

theorem Reaches.stayExecuting (h : Reaches s t) (c : LongCommand) (p : Params) : Reaches s (t.stayExecuting c p) :=
  h.trans (reaches_of_command rfl nofun)

end Sys2Proof.Proofs.Changes

/-! PROOFS. The changes that the operations of the Stream Unit come to: letting entries go, delivering, posting,
placing a byte, and the commands of a stream (03, 04). -/

namespace Sys2Proof.Proofs.StreamChanges

open Sys2Proof Sys2Proof.Machine Sys2Proof.Safety Sys2Proof.Laws
open Sys2Proof.Proofs.LinePool Sys2Proof.Proofs.Coherence Sys2Proof.Proofs.Changes Sys2Proof.Proofs.StreamCommands

variable {s t : State} {n : StreamId} {r : ReadStream} {w : WriteStream} {a : Assembly}

/-! ### A stream's context beside the other parts -/

@[simp] theorem setStream_same (s : State) (n : StreamId) (c : Stream) : (s.setStream n c).streams[n] = c := by simp

theorem setStream_other {m : StreamId} (s : State) (c : Stream) (h : m ≠ n) :
    (s.setStream n c).streams[m] = s.streams[m] := by
  have apart : n.val ≠ m.val := fun same => h (Fin.ext same.symm)
  simp [apart]

@[simp] theorem setStream_setStream (s : State) (n : StreamId) (c d : Stream) :
    (s.setStream n c).setStream n d = s.setStream n d := by
  simp [State.setStream]

theorem setStream_self {c : Stream} (h : s.streams[n] = c) : s.setStream n c = s := by
  subst h
  simp [State.setStream]

theorem releaseEntry_setStream (s : State) (n : StreamId) (c : Stream) (e : ReadEntry) :
    (s.setStream n c).releaseEntry e = (s.releaseEntry e).setStream n c := by
  unfold State.releaseEntry
  split <;> rfl

theorem releaseEntries_cons (s : State) (e : ReadEntry) (es : List ReadEntry) :
    s.releaseEntries (e :: es) = (s.releaseEntry e).releaseEntries es := rfl

theorem releaseEntries_setStream (s : State) (n : StreamId) (c : Stream) (es : List ReadEntry) :
    (s.setStream n c).releaseEntries es = (s.releaseEntries es).setStream n c := by
  induction es generalizing s with
  | nil => rfl
  | cons e es ih => rw [releaseEntries_cons, releaseEntry_setStream, ih, releaseEntries_cons]

@[simp] theorem releaseEntries_streams (s : State) (es : List ReadEntry) : (s.releaseEntries es).streams = s.streams := by
  rw [releaseEntries_keeps]

/-! ### A stream's turns -/

/-- A read stream keeps its queue, and any depth that holds it (R35). -/
theorem turns_read {r q : ReadStream} (queue : q.queue = r.queue) (depth : q.depth = r.depth)
    (cursor : r.fetchCursor % 16 = 0 → q.fetchCursor % 16 = 0) : StreamTurns (.read r) (.read q) where
  entries := queue
  assembly := .inl rfl
  lawful h := by
    simp only [StreamLawful, queue, depth]
    exact h
  empty _ w h := by cases h
  aligned h := ⟨fun _ h' => by cases h'; exact cursor (h.cursor r rfl), fun e he => h.entries e
    (by simpa only [Stream.entries, queue] using he), nofun⟩

/-- A write stream keeps the slot and line of its assembly, and waits for a slot only without one (R60). -/
theorem turns_write {w v : WriteStream}
    (assembly : v.assembly.map (fun a => (a.slot, a.line)) = w.assembly.map (fun a => (a.slot, a.line)))
    (state : v.state = .blocked .noSlot → w.assembly = none ∨ w.state = .blocked .noSlot) :
    StreamTurns (.write w) (.write v) where
  entries := rfl
  assembly := by
    have := congrArg (Option.map Prod.fst) assembly
    simp only [Option.map_map] at this
    exact .inl (congrArg Option.toList this)
  lawful _ := trivial
  empty h x hx blocked := by
    cases hx
    have none : w.assembly = none := (state blocked).elim id (h w rfl)
    rw [none] at assembly
    simpa using assembly
  aligned h := ⟨nofun, nofun, fun x a hx ha => by
    cases hx
    rw [ha] at assembly
    obtain ⟨a', ha', same⟩ := Option.map_eq_some_iff.mp assembly.symm
    have := h.assembly w a' rfl ha'
    simp only [Prod.mk.injEq] at same
    rwa [same.2] at this⟩

/-- A stream that holds nothing turns into any that holds nothing and waits for nothing. -/
theorem turns_of_empty {c d : Stream} (entries : c.entries = []) (assembly : assemblySlots c = [])
    (empty : StreamEmpty d) : StreamTurns c d where
  entries := empty.entries.trans entries.symm
  assembly := .inl (empty.assembly.trans assembly.symm)
  lawful _ := empty.lawful
  empty _ w h _ := by
    have none := empty.assembly
    rw [h] at none
    simpa [assemblySlots] using none
  aligned _ := {
    cursor := empty.aligned
    entries := fun e he => by
      rw [empty.entries] at he
      cases he
    assembly := fun w a h ha => by
      have none := empty.assembly
      rw [h] at none
      simp [assemblySlots, ha] at none }

theorem empty_closed : StreamEmpty .closed := ⟨rfl, rfl, trivial, nofun⟩

theorem empty_write (h : w.assembly = none) : StreamEmpty (.write w) :=
  ⟨rfl, by simp [assemblySlots, h], trivial, nofun⟩

theorem empty_read (queue : r.queue = []) (cursor : r.fetchCursor % 16 = 0) : StreamEmpty (.read r) :=
  ⟨queue, rfl, by simp [StreamLawful, queue], fun _ h => by cases h; exact cursor⟩

theorem not_closed_of_read (h : s.streams[n] = .read r) : s.streams[n] ≠ .closed := by
  rw [h]
  exact nofun

theorem not_closed_of_write (h : s.streams[n] = .write w) : s.streams[n] ≠ .closed := by
  rw [h]
  exact nofun

theorem reaches_read {q : ReadStream} (read : s.streams[n] = .read r) (queue : q.queue = r.queue)
    (depth : q.depth = r.depth) (cursor : r.fetchCursor % 16 = 0 → q.fetchCursor % 16 = 0) :
    Reaches s (s.setStream n (.read q)) :=
  (Change.stream (fun _ => .inl (not_closed_of_read read)) (read ▸ turns_read queue depth cursor)).reaches

theorem reaches_write {v : WriteStream} (write : s.streams[n] = .write w)
    (assembly : v.assembly.map (fun a => (a.slot, a.line)) = w.assembly.map (fun a => (a.slot, a.line)))
    (state : v.state = .blocked .noSlot → w.assembly = none ∨ w.state = .blocked .noSlot) :
    Reaches s (s.setStream n (.write v)) :=
  (Change.stream (fun _ => .inl (not_closed_of_write write)) (write ▸ turns_write assembly state)).reaches

theorem assemblySlots_none (h : w.assembly = none) : assemblySlots (.write w) = [] := by
  simp [assemblySlots, h]

theorem reaches_emptied {c : Stream} (write : s.streams[n] = .write w) (none : w.assembly = none) (empty : StreamEmpty c) :
    Reaches s (s.setStream n c) :=
  (Change.stream (fun _ => .inl (not_closed_of_write write))
    (write ▸ turns_of_empty rfl (assemblySlots_none none) empty)).reaches

/-! ### Read streams (R44 to R46, R51, R55) -/

/-- Letting the first entries of a queue go comes to letting them go one by one (R44). -/
theorem reaches_letGo {es rest : List ReadEntry} (read : s.streams[n] = .read r) (queue : r.queue = es ++ rest) :
    Reaches s ((s.releaseEntries es).setStream n (.read { r with queue := rest })) := by
  induction es generalizing s r with
  | nil =>
    obtain rfl : r.queue = rest := queue
    exact reaches_of_vital (congrArg vital (setStream_self read))
  | cons e es ih =>
    have first : Reaches s ((s.releaseEntry e).setStream n (.read { r with queue := es ++ rest })) :=
      (Change.letGo read queue).reaches
    have others := ih (s := (s.releaseEntry e).setStream n (.read { r with queue := es ++ rest }))
      (r := { r with queue := es ++ rest }) (setStream_same _ n _) rfl
    rw [releaseEntries_setStream, setStream_setStream] at others
    exact first.trans others

/-- The first entries go and the context changes. -/
theorem reaches_letGo_turn {es rest : List ReadEntry} {q : ReadStream} (read : s.streams[n] = .read r)
    (queue : r.queue = es ++ rest) (kept : q.queue = rest) (depth : q.depth = r.depth)
    (cursor : r.fetchCursor % 16 = 0 → q.fetchCursor % 16 = 0) :
    Reaches s ((s.releaseEntries es).setStream n (.read q)) := by
  have gone := reaches_letGo read queue
  have turned : Reaches ((s.releaseEntries es).setStream n (.read { r with queue := rest }))
      (((s.releaseEntries es).setStream n (.read { r with queue := rest })).setStream n (.read q)) :=
    reaches_read (r := { r with queue := rest }) (setStream_same _ n _) kept depth cursor
  rw [setStream_setStream] at turned
  exact gone.trans turned

theorem leaving_append (r : ReadStream) (next : Nat) : r.queue = r.leaving next ++ r.queue.drop (r.leaving next).length := by
  unfold ReadStream.leaving
  split
  · next e rest h => split <;> simp [h]
  · next h => simp [h]

theorem reaches_moveTo (read : s.streams[n] = .read r) (next : Nat) :
    Reaches s ((s.releaseEntries (r.leaving next)).setStream n (.read (r.moveTo next))) :=
  reaches_letGo_turn read (leaving_append r next) rfl rfl id

theorem reaches_advanceRead (read : s.streams[n] = .read r) : Reaches s (s.advanceRead n r) := by
  unfold State.advanceRead
  split
  · split
    · refine Reaches.flags ?_ n _
      exact reaches_letGo_turn read (List.append_nil _).symm rfl rfl id
    · exact (reaches_moveTo read r.window.first).flags n _
  · exact reaches_moveTo read (r.cursor + 1)

theorem reaches_deliver (read : s.streams[n] = .read r) : Reaches s (s.deliver n r) :=
  (reaches_advanceRead read).answered _

theorem reaches_answerWaitingRead (s : State) (n : StreamId) : Reaches s (s.answerWaitingRead n) := by
  unfold State.answerWaitingRead
  split
  · split
    · next r read =>
      split
      · exact reaches_deliver read
      · exact .refl
    · exact .refl
    · exact .refl
  · exact .refl

theorem reaches_seekRead (read : s.streams[n] = .read r) (a : Nat) : Reaches s (s.seekRead n r a) := by
  refine reaches_letGo_turn read (List.takeWhile_append_dropWhile).symm rfl rfl fun cursor => ?_
  simp only [ReadStream.seekTo]
  split
  · exact lineOf_mod a
  · exact cursor

theorem reaches_closeRead (read : s.streams[n] = .read r) : Reaches s (s.closeRead n r) := by
  have gone := reaches_letGo (rest := []) read (List.append_nil _).symm
  have closed : Reaches ((s.releaseEntries r.queue).setStream n (.read { r with queue := [] }))
      (((s.releaseEntries r.queue).setStream n (.read { r with queue := [] })).setStream n .closed) := by
    refine (Change.stream (fun _ => .inr rfl) ?_).reaches
    rw [setStream_same]
    exact turns_of_empty rfl rfl empty_closed
  rw [setStream_setStream] at closed
  exact gone.trans closed

/-! ### Posting (R62, R65) -/

theorem foldl_patchEntry_setStream (n : StreamId) (c : Stream) (line : Nat) (mask : ByteMask) (bytes : Line)
    (es : List ReadEntry) (s : State) : es.foldl (State.patchEntry line mask bytes) (s.setStream n c) =
      (es.foldl (State.patchEntry line mask bytes) s).setStream n c := by
  induction es generalizing s with
  | nil => rfl
  | cons e es ih =>
    have one : (s.setStream n c).patchEntry line mask bytes e = (s.patchEntry line mask bytes e).setStream n c := by
      unfold State.patchEntry
      split <;> rfl
    rw [List.foldl_cons, one, ih, List.foldl_cons]

/-- What patch-on-accept does is not altered by a stream's context that holds the same entries. -/
theorem patchFilled_setStream {c : Stream} (same : c.entries = s.streams[n].entries) (line : Nat) (mask : ByteMask)
    (bytes : Line) : (s.setStream n c).patchFilled line mask bytes = (s.patchFilled line mask bytes).setStream n c := by
  have entries : (s.setStream n c).streams.toList.flatMap Stream.entries = s.streams.toList.flatMap Stream.entries := by
    have here : c.entries = (s.streams.toList.map Stream.entries)[n.val]'(by simp) := by simp [same]
    rw [List.flatMap_def, List.flatMap_def, setStream_streams, Vector.toList_set, List.map_set, here,
      List.set_getElem_self]
  unfold State.patchFilled
  rw [entries, foldl_patchEntry_setStream]

theorem acceptPost_setStream {c : Stream} (same : c.entries = s.streams[n].entries) (line : Nat) (mask : ByteMask)
    (k : SlotId) : (s.setStream n c).acceptPost line mask k = (s.acceptPost line mask k).map (·.setStream n c) := by
  unfold State.acceptPost
  rw [setStream_post]
  split
  · next e _ => exact congrArg some (patchFilled_setStream (s := ((s.fillSlot e.slot _).withPost _).release k) same _ _ _)
  · split
    · rfl
    · exact congrArg some
        (patchFilled_setStream (s := (s.withPost (s.post.append line mask k)).own k .post) same _ _ _)

/-- The stream's context that posting replaces does not matter. -/
theorem postAssembly_setStream {v : WriteStream} (write : s.streams[n] = .write v) (w u : WriteStream) (a : Assembly)
    (x y : WriteState) :
    (s.setStream n (.write u)).postAssembly n w a x y = s.postAssembly n w a x y := by
  unfold State.postAssembly
  rw [acceptPost_setStream (by rw [write]; rfl)]
  cases s.acceptPost a.line a.mask a.slot with
  | none => exact setStream_setStream ..
  | some t => exact setStream_setStream ..

/-- The stream's context that a placement replaces does not matter. -/
theorem placeByte_setStream {v : WriteStream} (write : s.streams[n] = .write v) (w u : WriteStream) (a : Assembly)
    (b : Byte) : (s.setStream n (.write u)).placeByte n w a b = s.placeByte n w a b := by
  have stored : (s.setStream n (.write u)).fillSlot a.slot
      (Line.place ((s.setStream n (.write u)).bytesOf a.slot) w.cursor b) =
      (s.fillSlot a.slot (Line.place (s.bytesOf a.slot) w.cursor b)).setStream n (.write u) := rfl
  have same : (s.fillSlot a.slot (Line.place (s.bytesOf a.slot) w.cursor b)).streams[n] = .write v := write
  unfold State.placeByte
  dsimp only
  rw [stored]
  split
  · split <;> rw [postAssembly_setStream same]
  · split
    · exact setStream_setStream ..
    · exact postAssembly_setStream same ..

/-- Posting the stream's assembly: accepted, or held (R62, R65). -/
theorem reaches_postAssembly {v : WriteStream} {b : Assembly} {x y : WriteState} (write : s.streams[n] = .write v)
    (assembly : v.assembly = some b) (slot : a.slot = b.slot) (line : a.line = b.line)
    (held : y ≠ .blocked .noSlot) : Reaches s (s.postAssembly n w a x y) := by
  rcases postAssembly_cases s n w a x y with ⟨t, taken, posted⟩ | ⟨-, posted⟩ <;> rw [posted]
  · rw [slot, line] at taken
    exact (Change.postAssembly write assembly taken (empty_write rfl)).reaches
  · exact reaches_write write (by simp [assembly, slot, line]) fun h => (held h).elim

theorem mem_holderSlots_assembly (write : s.streams[n] = .write w) (assembly : w.assembly = some a) :
    a.slot ∈ holderSlots s (.assembly n) :=
  mem_assemblySlots.mpr ⟨w, a, write, assembly, rfl⟩

/-- A byte is placed in the stream's assembly (R61, R13, R14). -/
theorem reaches_placeByte {v : WriteStream} {b : Assembly} (write : s.streams[n] = .write v)
    (assembly : v.assembly = some b) (slot : a.slot = b.slot) (line : a.line = b.line) (x : Byte) :
    Reaches s (s.placeByte n w a x) := by
  have stored : Reaches s (s.fillSlot a.slot (Line.place (s.bytesOf a.slot) w.cursor x)) :=
    (Change.fill _ (slot ▸ mem_holderSlots_assembly write assembly) (.inl ⟨n, rfl⟩)).reaches
  have still : (s.fillSlot a.slot (Line.place (s.bytesOf a.slot) w.cursor x)).streams[n] = .write v := write
  refine stored.trans ?_
  unfold State.placeByte
  dsimp only
  split
  · split
    · refine Reaches.flags ?_ n _
      exact reaches_postAssembly still assembly slot line (by decide)
    · refine Reaches.flags ?_ n _
      exact reaches_postAssembly still assembly slot line (by decide)
  · split
    · refine reaches_write still ?_ fun h => by cases h
      simp [assembly, slot, line, Assembly.mark]
    · exact reaches_postAssembly still assembly slot line (by decide)

/-! ### A slot for a write stream (R27, R60) -/

/-- The assembly is made and a byte is placed in it. -/
theorem reaches_gather_place {k : SlotId} (write : s.streams[n] = .write w) (empty : w.assembly = none)
    (free : s.pool.slots[k].owner = .free) (pos : Fin 9) (b : Byte) :
    Reaches s (((s.withPool { s.pool with grantPos := pos }).own k (.assembly n)).placeByte n (w.withAssembly k)
      { slot := k, line := lineOf w.cursor, mask := 0#16, frozen := false } b) := by
  have turn : Reaches s (s.withPool { s.pool with grantPos := pos }) := reaches_of_vital rfl
  have made := turn.tail (Change.gather (s := s.withPool { s.pool with grantPos := pos }) write (.inl empty) free)
  have same : ((s.withPool { s.pool with grantPos := pos }).own k (.assembly n)).streams[n] = .write w := write
  rw [← placeByte_setStream same (w.withAssembly k) (w.withAssembly k)]
  exact made.trans (reaches_placeByte (setStream_same _ n _) rfl rfl rfl b)

theorem reaches_grantAssembly {k : SlotId} (write : s.streams[n] = .write w)
    (empty : w.assembly = none ∨ w.state = .blocked .noSlot) (free : s.pool.slots[k].owner = .free) :
    Reaches s (s.grantAssembly n w k) := by
  have made : Reaches s ((s.own k (.assembly n)).setStream n (.write (w.withAssembly k))) :=
    (Change.gather write empty free).reaches
  unfold State.grantAssembly
  dsimp only
  split
  · next v a _ assembly =>
    have placed := reaches_placeByte (w := w.withAssembly k) (x := v)
      (setStream_same (s.own k (.assembly n)) n (.write (w.withAssembly k))) assembly rfl rfl
    exact Reaches.answered (made.trans placed) _
  · exact made
  · exact made

theorem reaches_blockNoSlot (write : s.streams[n] = .write w) (empty : w.assembly = none) (v : Byte) :
    Reaches s (s.blockNoSlot n w v) := by
  have blocked : Reaches s (s.setStream n (.write { w with state := .blocked .noSlot })) :=
    reaches_write write rfl fun _ => .inl empty
  unfold State.blockNoSlot
  dsimp only
  split
  · exact blocked.answered _
  · exact blocked.flags n _

theorem firstFree_owner {p : Pool} {k : SlotId} (h : p.firstFree = some k) : p.slots[k].owner = .free := by
  simpa using List.find?_some h

theorem reaches_writeInOpen (write : s.streams[n] = .write w) (v : Byte) : Reaches s (s.writeInOpen n w v) := by
  unfold State.writeInOpen
  split
  · next a assembly => exact reaches_placeByte write assembly rfl rfl v
  · next assembly =>
    split
    · next k free => exact reaches_gather_place write assembly (firstFree_owner free) _ v
    · exact reaches_blockNoSlot write assembly v

theorem reaches_lingerPost (write : s.streams[n] = .write w) : Reaches s (s.lingerPost n w) := by
  unfold State.lingerPost
  split
  · next a assembly => exact reaches_postAssembly write assembly rfl rfl nofun
  · exact reaches_write write rfl .inr

theorem writeTurnedAway_vital (s : State) (n : StreamId) (w : WriteStream) (v : Byte) :
    vital (s.writeTurnedAway n w v) = vital s := by
  unfold State.writeTurnedAway
  split <;> rfl

/-! ### FLUSH, SEEK and CLOSE of a write stream (R70 to R74) -/

theorem empty_drainEffect (h : w.assembly = none) (c : LongCommand) (target : Nat) : StreamEmpty (drainEffect c target w) := by
  cases c with
  | close => exact empty_closed
  | memStart => exact empty_write h
  | flush | seek => exact empty_write rfl

/-- The command's effect on a stream without assembly (R70, R74). -/
theorem reaches_finishDrain (write : s.streams[n] = .write w) (empty : w.assembly = none) (c : LongCommand) (p : Params) :
    Reaches s (s.finishDrain n w c p) :=
  (reaches_emptied write empty (empty_drainEffect empty c p.target)).complete .ok

theorem reaches_drain {v : WriteStream} (write : s.streams[n] = .write v)
    (assembly : w.assembly.map (fun a => (a.slot, a.line)) = v.assembly.map (fun a => (a.slot, a.line)))
    (c : LongCommand) (p : Params) : Reaches s (s.drain n w c p) := by
  refine Reaches.stayExecuting ?_ c p
  exact reaches_write write assembly fun h => by cases h

/-- The commands that deal with an assembly leave the stream without one (R71 to R73). -/
theorem empty_drainEffect_of_command {c : LongCommand} (command : c ≠ .memStart) (target : Nat) (w : WriteStream) :
    StreamEmpty (drainEffect c target w) := by
  cases c with
  | close => exact empty_closed
  | memStart => exact (command rfl).elim
  | flush | seek => exact empty_write rfl

/-- A stream that waits for a slot is closed (R73): it holds none. -/
theorem turns_closed_of_waiting (blocked : w.state = .blocked .noSlot) : StreamTurns (.write w) .closed where
  entries := rfl
  assembly := .inr ⟨rfl, w, rfl, blocked⟩
  lawful _ := trivial
  empty _ := nofun
  aligned _ := ⟨nofun, nofun, nofun⟩

theorem reaches_noSlotEffect (write : s.streams[n] = .write w) (blocked : w.state = .blocked .noSlot)
    (c : LongCommand) (target : Nat) : Reaches s (s.setStream n (noSlotEffect c target w)) := by
  cases c with
  | close => exact (Change.stream (fun _ => .inr rfl) (write ▸ turns_closed_of_waiting blocked)).reaches
  | _ => exact reaches_write write rfl fun _ => .inr blocked

/-- FLUSH, SEEK and CLOSE of a write stream (R70 to R73). -/
theorem reaches_writeStreamCommand (write : s.streams[n] = .write w) {c : LongCommand} (command : c ≠ .memStart)
    (p : Params) : Reaches s (s.writeStreamCommand n w c p) := by
  unfold State.writeStreamCommand
  split
  · split
    · next empty => exact reaches_finishDrain write empty c p
    · next a assembly =>
      split
      · exact (Change.dropAssembly write assembly
          (empty_drainEffect_of_command command p.target w)).reaches.complete .ok
      · split
        · next t taken => exact (Change.postAssembly write assembly taken
            (empty_drainEffect_of_command command p.target w)).reaches.complete .ok
        · exact reaches_drain write (by simp [assembly]) c p
  · next blocked => exact (reaches_noSlotEffect write blocked c p.target).complete .ok
  · exact reaches_drain write rfl c p
  · exact reaches_drain write rfl c p
  · split
    · exact Reaches.complete .refl .ok
    all_goals
      split
      · next empty => exact reaches_finishDrain write empty _ p
      · exact reaches_drain write rfl _ p

end Sys2Proof.Proofs.StreamChanges

/-! PROOFS. The changes that the consequences of an event come to (R25, R74, R77, R110, R143 to R153, R171), and the
event's end. -/

namespace Sys2Proof.Proofs.ActionChanges

open Sys2Proof Sys2Proof.Machine Sys2Proof.Safety Sys2Proof.Laws
open Sys2Proof.Proofs.LinePool Sys2Proof.Proofs.Coherence Sys2Proof.Proofs.Changes Sys2Proof.Proofs.StreamChanges
open Sys2Proof.Proofs.Grants Sys2Proof.Proofs.HeldPosts Sys2Proof.Proofs.MoveEngine

variable {s t : State} {e f g : Engine} {j : ActiveJob}

/-! ### The Move Engine's turns -/

/-- The engine keeps its buffers and its destination line. -/
theorem turns_of_held (buffers : f.buffers = e.buffers) (dest : f.dest = e.dest)
    (jobs : e.jobs.length ≤ 4 → f.jobs.length ≤ 4) (completions : e.completions.length ≤ 4 → f.completions.length ≤ 4) :
    EngineTurns e f where
  buffers k := by rw [buffers]
  inFlight k x _ := by rw [buffers]
  dest := by rw [dest]
  aligned h d := by
    rw [dest]
    exact h d
  jobs := jobs
  completions := completions

theorem turns_mapActive (e : Engine) (f : ActiveJob → ActiveJob) : EngineTurns e (e.mapActive f) := by
  unfold Engine.mapActive
  split <;> exact turns_of_held rfl rfl id id

/-- A request withdrawn leaves each buffer its slot, and the ones in flight as they are (R145). -/
theorem turns_withdrawRequest (e : Engine) : EngineTurns e e.withdrawRequest where
  buffers k := by
    simp only [Engine.withdrawRequest, Fin.getElem_fin, Vector.getElem_map, Option.map_map]
    congr 1
    funext x
    simp only [Function.comp_apply, SourceBuffer.withdraw]
    split <;> rfl
  inFlight k x flying := by
    simp only [Engine.withdrawRequest, Fin.getElem_fin, Vector.getElem_map, Option.map_eq_some_iff,
      SourceBuffer.withdraw]
    constructor
    · rintro ⟨y, hy, same⟩
      split at same
      · subst same
        cases flying
      · exact same ▸ hy
    · intro h
      exact ⟨x, h, if_neg (by rw [flying]; decide)⟩
  dest := rfl
  aligned h := h
  jobs h := h
  completions h := h

theorem turns_conclude (e : Engine) (o : JobOutcome) (v : Nat) : EngineTurns e (e.conclude o v) :=
  (turns_mapActive e _).trans (turns_withdrawRequest _)

theorem turns_finishChunk (e : Engine) (j : ActiveJob) (n : Nat) (o : JobOutcome) : EngineTurns e (e.finishChunk j n o) := by
  unfold Engine.finishChunk
  split
  · exact (turns_mapActive e _).trans (turns_conclude _ o 0)
  · exact turns_mapActive e _

theorem getElem_set_buffer (v : Vector (Option SourceBuffer) 2) (k m : Fin 2) (x : Option SourceBuffer) :
    (v.set k.val x)[m] = if m = k then x else v[m] := by
  by_cases h : m = k
  · subst h
    simp
  · have apart : k.val ≠ m.val := fun same => h (Fin.ext same.symm)
    simp [h, apart]

/-- A buffer that is EMPTY or FILLED takes a line to ask for (R145). -/
theorem turns_assign {k : Fin 2} (landed : ∀ x, e.buffers[k] = some x → x.state ≠ .inFlight) (line : Nat) :
    EngineTurns e (e.assign k line) := by
  unfold Engine.assign
  split
  · next b buffer =>
    have state := landed b buffer
    refine ⟨fun m => ?_, fun m x flying => ?_, rfl, fun h => h, fun h => h, fun h => h⟩
    · rw [getElem_set_buffer]
      split
      · next same =>
        subst same
        rw [buffer]
        rfl
      · rfl
    · rw [getElem_set_buffer]
      split
      · next same =>
        subst same
        rw [buffer]
        constructor
        · intro h
          cases h
          cases flying
        · intro h
          cases h
          exact (state flying).elim
      · rfl
  · exact turns_of_held rfl rfl id id

/-- An engine with a job, or with one waiting, is not as reset left it. -/
theorem ne_reset_of_state {x : EngineState} (h : e.state = x) (busy : x ≠ .idle) : e ≠ Engine.reset := by
  rintro rfl
  exact busy h.symm

theorem ne_reset_of_working (h : e.working = some j) : e ≠ Engine.reset := by
  rintro rfl
  cases h

theorem reaches_mapEngine {f : Engine → Engine} (awake : s.engine ≠ Engine.reset) (turns : EngineTurns s.engine (f s.engine)) :
    Reaches s (s.mapEngine f) := (Change.engine (fun _ => awake) turns).reaches

/-! ### SCAN, COMPARE and the next source line (R145, R151, R152) -/

theorem reaches_scanExamination (h : scanExamination s = some t) : Reaches s t := by
  unfold scanExamination at h
  split at h
  · next j working =>
    split at h
    · split at h
      · cases h
        unfold State.examine
        dsimp only
        split
        · exact reaches_mapEngine (ne_reset_of_working working) (turns_conclude ..)
        · exact reaches_mapEngine (ne_reset_of_working working) (turns_finishChunk ..)
      · cases h
    all_goals cases h
  · cases h

theorem reaches_compareChunk (h : compareChunk s = some t) : Reaches s t := by
  unfold compareChunk at h
  split at h
  · next j working =>
    split at h
    · split at h
      · cases h
        unfold State.compareLines
        dsimp only
        split
        · exact reaches_mapEngine (ne_reset_of_working working) (turns_conclude ..)
        · exact reaches_mapEngine (ne_reset_of_working working) (turns_finishChunk ..)
      all_goals cases h
    all_goals cases h
  · cases h

/-- A buffer found for a line is EMPTY or FILLED. -/
theorem idle_iff {x : SourceBuffer} : x.idle = true ↔ x.state = .empty ∨ x.state = .filled := by
  simp [SourceBuffer.idle]

theorem findBuffer_some {p : SourceBuffer → Bool} {k : Fin 2} (h : e.findBuffer p = some k) :
    ∃ x, e.buffers[k] = some x ∧ p x = true := by
  have found := List.find?_some h
  cases buffer : e.buffers[k] with
  | none => simp only [buffer] at found; cases found
  | some x => exact ⟨x, rfl, by simpa only [buffer] using found⟩

theorem landed_of_idle {k : Fin 2} {x : SourceBuffer} (buffer : e.buffers[k] = some x) (idle : x.idle = true) :
    ∀ y, e.buffers[k] = some y → y.state ≠ .inFlight := by
  intro y hy
  rw [buffer] at hy
  cases hy
  rcases idle_iff.mp idle with h | h <;> rw [h] <;> decide

theorem landed_of_findBuffer {p q : SourceBuffer → Bool} {k : Fin 2} (h : e.findBuffer p = some k)
    (idle : ∀ x, p x = (x.idle && q x)) : ∀ y, e.buffers[k] = some y → y.state ≠ .inFlight := by
  obtain ⟨x, buffer, hx⟩ := findBuffer_some h
  rw [idle, Bool.and_eq_true] at hx
  exact landed_of_idle buffer hx.1

theorem landed_of_compareFetchInto {m k : Fin 2} {line l : Nat} (h : e.compareFetchInto m line = some (k, l)) :
    ∀ y, e.buffers[k] = some y → y.state ≠ .inFlight := by
  unfold Engine.compareFetchInto at h
  split at h
  · next b buffer =>
    split at h
    · next idle =>
      cases h
      rw [Bool.and_eq_true] at idle
      exact landed_of_idle buffer idle.1
    · cases h
  · cases h

/-- The buffer that receives the next line is not in flight (R145, condition 4). -/
theorem landed_of_nextFetch {k : Fin 2} {line : Nat} (h : e.nextFetch j = some (k, line)) :
    ∀ y, e.buffers[k] = some y → y.state ≠ .inFlight := by
  unfold Engine.nextFetch at h
  split at h
  · unfold Engine.copyFetch at h
    split at h
    · split at h
      · next found =>
        cases h
        exact landed_of_findBuffer found fun x => rfl
      · cases h
    · cases h
  · cases h
  · unfold Engine.scanFetch at h
    split at h
    · split at h
      · next found =>
        cases h
        exact landed_of_findBuffer found fun x => rfl
      · cases h
    · cases h
  · unfold Engine.compareFetch at h
    split at h
    · next r into =>
      cases h
      exact landed_of_compareFetchInto into
    · exact landed_of_compareFetchInto h

theorem reaches_engineRequest (h : engineRequest s = some t) : Reaches s t := by
  unfold engineRequest at h
  split at h
  · next j working =>
    split at h
    · cases h
    · split at h
      · next k line next =>
        cases h
        exact reaches_mapEngine (ne_reset_of_working working) (turns_assign (landed_of_nextFetch next) line)
      · cases h
  · cases h

/-! ### Destination lines (R147) -/

/-- The destination line's slot is given up with a post, and the chunk has ended. -/
theorem reaches_endChunk {u : State} {d : DestLine} {line n : Nat} {mask : ByteMask} (dest : s.engine.dest = some d)
    (aligned : d.line % 16 = 0 → line % 16 = 0) (taken : s.acceptPost line mask d.slot = some t)
    (same : u.engine = t.engine) (vital : vital u = vital t) : Reaches s (u.endChunk n) := by
  have kept : t.engine = s.engine := by rw [acceptPost_keeps taken]
  have turned (e : Engine) (turns : EngineTurns { s.engine with dest := none } e) : Reaches s (u.withEngine e) :=
    (Change.postDest dest aligned taken turns).reaches.vital (by
      simp only [Changes.vital, Vital.mk.injEq] at vital
      simp only [Changes.vital, Vital.mk.injEq]
      tauto)
  unfold State.endChunk
  rw [same, kept]
  split
  · exact turned _ (turns_finishChunk ..)
  · exact turned _ (turns_of_held rfl rfl id id)

theorem mem_holderSlots_dest {d : DestLine} (dest : s.engine.dest = some d) : d.slot ∈ holderSlots s .jobDest := by
  simp [holderSlots, dest]

theorem ne_reset_of_dest {d : DestLine} (dest : e.dest = some d) : e ≠ Engine.reset := by
  rintro rfl
  cases dest

theorem reaches_buildAndPost {d : DestLine} (dest : s.engine.dest = some d) (j : ActiveJob) (c : Chunk) :
    Reaches s (s.buildAndPost j c d.slot) := by
  unfold State.buildAndPost
  dsimp only
  have built (l : Line) : Reaches s (s.fillSlot d.slot l) :=
    (Change.fill l (mem_holderSlots_dest dest) (.inr rfl)).reaches
  have still (l : Line) : (s.fillSlot d.slot l).engine.dest = some d := dest
  split
  · next t taken => exact (built _).trans (reaches_endChunk (still _) (fun _ => lineOf_mod _) taken rfl rfl)
  · refine (built _).trans (reaches_mapEngine (ne_reset_of_dest (still _)) ?_)
    refine ⟨fun k => rfl, fun k x _ => .rfl, ?_, fun _ d' hd' => ?_, fun h => h, fun h => h⟩
    · simp [dest]
    · cases hd'
      exact lineOf_mod _

theorem reaches_destinationLineBuild (h : destinationLineBuild s = some t) : Reaches s t := by
  unfold destinationLineBuild at h
  split at h
  · next j d _ dest =>
    split at h
    · split at h
      · cases h
        exact reaches_buildAndPost dest _ _
      · cases h
    · cases h
  all_goals cases h

/-! ### Start and end of a job (R143, R153) -/

theorem reaches_jobStart (h : jobStart s = some t) : Reaches s t := by
  unfold jobStart at h
  split at h
  · next j rest _ jobs =>
    cases h
    refine (Change.engine (fun _ same => ?_) ?_).reaches
    · rw [same] at jobs
      cases jobs
    · have fewer : s.engine.jobs.length ≤ 4 → rest.length ≤ 4 := fun few => by
        rw [jobs, List.length_cons] at few
        omega
      unfold Engine.start
      split <;> exact turns_of_held rfl rfl fewer id
  all_goals cases h

theorem foldl_release_withEngine (l : List SlotId) (s : State) (e : Engine) :
    l.foldl State.release (s.withEngine e) = (l.foldl State.release s).withEngine e := by
  induction l generalizing s with
  | nil => rfl
  | cons k l ih => exact ih (s.release k)

/-- The state after the release of some slots, with the engine that held them. -/
def handedBack (s : State) (l : List SlotId) (e : Engine) : State := (l.foldl State.release s).withEngine e

theorem foldl_release_handedBack (s : State) (l m : List SlotId) (e f : Engine) :
    (m.foldl State.release (handedBack s l e)).withEngine f = handedBack s (l ++ m) f := by
  unfold handedBack
  rw [foldl_release_withEngine, List.foldl_append]
  rfl

/-- A source buffer is given up: its slot is released. -/
theorem reaches_dropBuffer {l : List SlotId} (reached : Reaches s (handedBack s l e)) (k : Fin 2)
    (landed : ∀ x, e.buffers[k] = some x → x.state ≠ .inFlight) :
    Reaches s (handedBack s (l ++ (e.buffers[k].map SourceBuffer.slot).toList)
      { e with buffers := e.buffers.set k.val none }) := by
  cases buffer : e.buffers[k] with
  | none =>
    have same : e.buffers.set k.val none = e.buffers := by
      rw [← buffer]
      exact Vector.set_getElem_self _
    rw [same, Option.map_none, Option.toList_none, List.append_nil]
    exact reached
  | some x =>
    rw [← foldl_release_handedBack]
    exact reached.tail (Change.dropBuffer (s := handedBack s l e) buffer (landed x buffer))

theorem reaches_dropDest {l : List SlotId} (reached : Reaches s (handedBack s l e)) :
    Reaches s (handedBack s (l ++ (e.dest.map DestLine.slot).toList) { e with dest := none }) := by
  cases dest : e.dest with
  | none =>
    have same : { e with dest := none } = e := by rw [← dest]
    rw [same, Option.map_none, Option.toList_none, List.append_nil]
    exact reached
  | some d =>
    rw [← foldl_release_handedBack]
    exact reached.tail (Change.dropDest (s := handedBack s l e) dest)

theorem engine_slots (e : Engine) : e.slots = (e.buffers[(0 : Fin 2)].map SourceBuffer.slot).toList ++
    (e.buffers[(1 : Fin 2)].map SourceBuffer.slot).toList ++ (e.dest.map DestLine.slot).toList := by
  rw [Engine.slots, buffers_list, List.map_append]
  congr 1
  · cases e.buffers[(0 : Fin 2)] <;> cases e.buffers[(1 : Fin 2)] <;> rfl
  · cases e.dest <;> rfl

theorem set_set_none (v : Vector (Option SourceBuffer) 2) : (v.set 0 none).set 1 none = Vector.replicate 2 none :=
  Vector.ext fun i hi => by
    have : i = 0 ∨ i = 1 := by omega
    rcases this with rfl | rfl <;> simp

/-- The engine gives up every slot that it holds (R153). -/
theorem reaches_emptyHanded (landed : ∀ (k : Fin 2) (x : SourceBuffer), s.engine.buffers[k] = some x → x.state ≠ .inFlight) :
    Reaches s ((s.engine.slots.foldl State.release s).withEngine s.engine.emptyHanded) := by
  have kept : (s.engine.buffers.set 0 none)[(1 : Fin 2)] = s.engine.buffers[(1 : Fin 2)] :=
    (getElem_set_buffer _ 0 1 none).trans (if_neg (by decide))
  have start : Reaches s (handedBack s [] s.engine) := .refl
  have first := reaches_dropBuffer start 0 (landed 0)
  have second := reaches_dropBuffer first 1 fun x hx => landed 1 x (kept ▸ hx)
  have third := reaches_dropDest second
  have emptied : { s.engine with buffers := (s.engine.buffers.set 0 none).set 1 none, dest := none } =
      s.engine.emptyHanded := by
    rw [set_set_none]
    rfl
  change Reaches s (handedBack s ([] ++ (s.engine.buffers[(0 : Fin 2)].map SourceBuffer.slot).toList ++
    ((s.engine.buffers.set 0 none)[(1 : Fin 2)].map SourceBuffer.slot).toList ++
    (s.engine.dest.map DestLine.slot).toList)
    { s.engine with buffers := (s.engine.buffers.set 0 none).set 1 none, dest := none }) at third
  rw [kept, emptied, List.nil_append, ← engine_slots] at third
  exact third

theorem turns_deliver (e : Engine) (r : CompletionRecord) : EngineTurns e (e.deliver r) := by
  unfold Engine.deliver
  split
  · next room =>
    refine turns_of_held rfl rfl id fun _ => ?_
    simp only [List.length_append, List.length_singleton]
    exact room
  · exact turns_of_held rfl rfl id id

theorem active_ne_idle (h : e.active = some j) : e.state ≠ .idle := by
  intro idle
  rw [Engine.active, idle] at h
  cases h

theorem anyBuffer_eq_false_iff {p : SourceBuffer → Bool} :
    e.anyBuffer p = false ↔ ∀ (k : Fin 2) (x : SourceBuffer), e.buffers[k] = some x → p x = false := by
  rw [← Bool.not_eq_true, Engine.anyBuffer, List.any_eq_true]
  constructor
  · intro none k x hx
    by_contra h
    exact none ⟨e.buffers[k], by simp, by rw [hx]; simpa using h⟩
  · rintro none ⟨b, hb, h⟩
    obtain ⟨i, hi, rfl⟩ := List.mem_iff_getElem.mp hb
    cases buffer : e.buffers.toList[i] with
    | none =>
      rw [buffer] at h
      cases h
    | some x =>
      rw [buffer] at h
      exact Bool.false_ne_true ((none ⟨i, by simpa using hi⟩ x (by simpa using buffer)).symm.trans h)

/-- What an ending job has behind it (R153). -/
theorem ending_some (h : e.ending = some j) : e.active = some j ∧
    ∀ (k : Fin 2) (x : SourceBuffer), e.buffers[k] = some x → x.state ≠ .inFlight := by
  cases active : e.active with
  | none =>
    rw [Engine.ending, active] at h
    cases h
  | some j' =>
    simp only [Engine.ending, active, Option.ite_none_right_eq_some, Bool.and_eq_true, Bool.not_eq_true',
      Option.some.injEq] at h
    obtain ⟨⟨⟨-, landed⟩, -⟩, rfl⟩ := h
    exact ⟨rfl, fun k x hx => by simpa using anyBuffer_eq_false_iff.mp landed k x hx⟩

theorem foldl_release_engine (l : List SlotId) (s : State) : (l.foldl State.release s).engine = s.engine :=
  foldl_keeps State.engine State.release (fun _ _ => rfl) l s

theorem reaches_jobEnd (h : jobEnd s = some t) : Reaches s t := by
  unfold jobEnd at h
  split at h
  · next j ending =>
    cases h
    obtain ⟨active, landed⟩ := ending_some ending
    have withdrawn : Reaches s s.withdrawEngineClaim := (Change.unclaim s 8).reaches
    have emptied := reaches_emptyHanded (s := s.withdrawEngineClaim) landed
    have awake : s.engine.emptyHanded ≠ Engine.reset := ne_reset_of_state rfl (active_ne_idle active)
    have ended := (withdrawn.trans emptied).tail
      (Change.engine (fun _ => awake) (turns_deliver s.engine.emptyHanded j.record))
    unfold State.endJob State.mapEngine
    rw [foldl_release_engine]
    exact ended
  · cases h

/-! ### Claims and grants of the pool (R24, R25, R27) -/

theorem reaches_syncClaims (h : syncClaims s = some t) : Reaches s t := by
  unfold syncClaims at h
  split at h
  · cases h
  · cases h
    exact (Change.claims s).reaches

theorem reaches_granted (s : State) (c : Fin 9) : Reaches s (s.withPool (s.pool.granted c)) :=
  (Change.unclaim s c).reaches.vital rfl

theorem nextGrant_claim {p : Pool} {c : Fin 9} {x : Claim} (h : p.nextGrant = some (c, x)) : p.claims[c] = some x := by
  unfold Pool.nextGrant at h
  split at h
  · next g first =>
    split at h
    · cases h
      exact (firstClaim_eq_some first).1
    · cases h
  · split at h
    · exact (firstClaim_eq_some h).1
    · cases h

theorem reaches_grantRead {n : StreamId} {k : SlotId} (free : s.pool.slots[k].owner = .free) : Reaches s (s.grantRead n k) := by
  unfold State.grantRead
  split
  · next r read =>
    split
    · next need => exact (Change.append read need free).reaches
    · exact .refl
  · exact .refl
  · exact .refl

theorem reaches_grantWrite {n : StreamId} {k : SlotId} (free : s.pool.slots[k].owner = .free) :
    Reaches s (s.grantWrite n k) := by
  unfold State.grantWrite
  split
  · next w write =>
    split
    · next blocked => exact reaches_grantAssembly write (.inr blocked) free
    · exact .refl
  · exact .refl
  · exact .refl

theorem ne_reset_of_buffer {k : Fin 2} {x : SourceBuffer} (buffer : e.buffers[k] = some x) : e ≠ Engine.reset := by
  rintro rfl
  simp [Engine.reset] at buffer

theorem turns_enterRunning (e : Engine) : EngineTurns e e.enterRunning := by
  unfold Engine.enterRunning
  split <;> exact turns_of_held rfl rfl id id

theorem reaches_grantSource {c : Fin 9} {x : Claim} {i : Fin 2} {k : SlotId} (claim : s.pool.claims[c] = some x)
    (purpose : x.purpose = .jobSource i) (free : s.pool.slots[k].owner = .free) :
    Reaches s ((s.withPool (s.pool.granted c)).grantSource i k) := by
  have taken : Reaches s (((s.withPool (s.pool.granted c)).own k (.jobSource i)).withEngine { s.engine with
      buffers := s.engine.buffers.set i.val (some { slot := k, line := none, state := .empty }) }) :=
    (Change.takeSource claim purpose free).reaches.vital rfl
  unfold State.grantSource
  by_cases second : i = 1
  · have awake : { s.engine with buffers := s.engine.buffers.set i.val (some { slot := k, line := none, state := .empty }) } ≠
        Engine.reset := ne_reset_of_buffer (k := i) (by simp; rfl)
    simp only [State.mapEngine, second, if_true]
    subst second
    exact taken.tail (Change.engine (fun _ => awake) (turns_enterRunning _))
  · simp only [State.mapEngine, second, if_false]
    exact taken

theorem reaches_grantDest {c : Fin 9} {x : Claim} {k : SlotId} (claim : s.pool.claims[c] = some x)
    (purpose : x.purpose = .jobDest) (free : s.pool.slots[k].owner = .free) :
    Reaches s ((s.withPool (s.pool.granted c)).grantDest k) := by
  unfold State.grantDest
  split
  · split
    · next ch _ =>
      exact (Change.takeDest (d := { slot := k, line := lineOf ch.lo, mask := 0#16, held := false }) claim purpose free
        (lineOf_mod _)).reaches.vital rfl
    · exact reaches_granted s c
  · exact reaches_granted s c

theorem reaches_slotGrant (h : slotGrant s = some t) : Reaches s t := by
  unfold slotGrant at h
  split at h
  · next c x k next free =>
    cases h
    have claim := nextGrant_claim next
    have isFree := firstFree_owner free
    unfold State.takeSlot
    split
    · split
      · exact (reaches_granted s c).trans (reaches_grantRead isFree)
      · exact reaches_granted s c
    · split
      · exact (reaches_granted s c).trans (reaches_grantWrite isFree)
      · exact reaches_granted s c
    · next purpose => exact reaches_grantSource claim purpose isFree
    · next purpose => exact reaches_grantDest claim purpose isFree
  all_goals cases h

/-! ### Held posts and drains (R74, R77) -/

theorem reaches_takeHeld {o : Fin 9} (h : s.takeHeld o = some t) : Reaches s t := by
  unfold State.takeHeld at h
  split at h
  · next p held =>
    split at h
    · next u taken =>
      cases h
      have streams : u.streams = s.streams := by rw [acceptPost_keeps taken]
      have engine : u.engine = s.engine := by rw [acceptPost_keeps taken]
      rcases heldAt_iff.mp held with ⟨n, w, a, same, write, assembly, -, rfl⟩ | ⟨eight, d, dest, -, rfl⟩
      · rw [posterAccepted_stream (n := n) (w := w) same (by rw [withPost_streams, streams, write])]
        exact (Change.postAssembly write assembly taken (empty_write rfl)).reaches.vital rfl
      · obtain rfl : o = 8 := Fin.ext eight
        rw [posterAccepted_engine (d := d) (by rw [withPost_engine, engine, dest])]
        exact reaches_endChunk dest id taken rfl rfl
    · cases h
  · cases h

theorem reaches_drainComplete (h : drainComplete s = some t) : Reaches s t := by
  unfold drainComplete at h
  split at h
  · split at h
    · split at h
      · next w write =>
        split at h
        · next drained =>
          cases h
          exact reaches_finishDrain write drained.2 _ _
        · cases h
      all_goals cases h
    · cases h
  all_goals cases h

/-! ### The Sequencer (R110), renewals and the end of RESETTING (R171) -/

theorem nextRequestGrant_some {p : Fin 10} {q : Request} (h : s.nextRequestGrant = some (p, q)) :
    s.requestAt p = some q ∧ s.eligible q = true := by
  unfold State.nextRequestGrant at h
  split at h
  · next g priority =>
    cases h
    unfold State.priorityGrant at priority
    split at priority
    · next p' q' at8 =>
      split at priority
      · cases priority
        obtain ⟨rfl, found⟩ := eligibleAt_eq_some at8
        exact found
      · cases priority
    · cases priority
  · obtain ⟨x, -, found⟩ := List.exists_of_findSome?_eq_some h
    obtain ⟨rfl, found⟩ := eligibleAt_eq_some found
    exact found

theorem reaches_requestGrant (h : requestGrant s = some t) : Reaches s t := by
  unfold requestGrant at h
  split at h
  · next p q next =>
    cases h
    obtain ⟨presented, eligible⟩ := nextRequestGrant_some next
    exact (Change.grant presented eligible).reaches
  · cases h

theorem reaches_renewalStart (h : renewalStart s = some t) : Reaches s t := by
  unfold renewalStart at h
  split at h
  · cases h
    exact reaches_of_vital rfl
  · cases h

theorem reaches_resettingEnd (h : resettingEnd s = some t) : Reaches s t := by
  unfold resettingEnd at h
  split at h
  · cases h
    exact reaches_of_command rfl nofun
  · cases h

theorem reaches_resetCallSatisfied (h : resetCallSatisfied s = some t) : Reaches s t := by
  unfold resetCallSatisfied at h
  split at h
  · cases h
    exact reaches_of_vital rfl
  · cases h

/-- Every consequence of an event comes to changes. -/
theorem reaches_action {a : State → Option State} (ha : a ∈ settleActions) (h : a s = some t) : Reaches s t := by
  simp only [settleActions, List.mem_cons, List.not_mem_nil, or_false] at ha
  rcases ha with rfl | rfl | rfl | rfl | rfl | rfl | rfl | rfl | rfl | rfl | rfl | rfl | rfl | rfl
  · exact reaches_syncClaims h
  · exact reaches_slotGrant h
  · obtain ⟨o, -, taken⟩ := List.exists_of_findSome?_eq_some h
    exact reaches_takeHeld taken
  · exact reaches_drainComplete h
  · exact reaches_jobEnd h
  · exact reaches_jobStart h
  · exact reaches_destinationLineBuild h
  · exact reaches_engineRequest h
  · exact reaches_scanExamination (examineInTurn_scan h)
  · exact reaches_compareChunk h
  · exact reaches_renewalStart h
  · exact reaches_requestGrant h
  · exact reaches_resettingEnd h
  · exact reaches_resetCallSatisfied h

/-! ### The end of an event -/

/-- The free data bus is held for the bank at the head of the burst order (R112). -/
theorem reaches_scheduleBurst (s : State) : Reaches s s.scheduleBurst := by
  unfold State.scheduleBurst
  split
  · next b rest free _ =>
    have due : Reaches s (s.addDue b .burst) := by
      rcases addDue_cases s b .burst with ⟨-, h⟩ | ⟨-, h⟩ <;> rw [h]
      exact reaches_of_vital rfl
    have stillFree : (s.addDue b .burst).seq.dataBus = none := by
      rcases addDue_cases s b .burst with ⟨-, h⟩ | ⟨-, h⟩ <;> rw [h] <;> exact free
    exact due.trans (reaches_of_dataBus rfl stillFree)
  · exact .refl
  · exact .refl

theorem reaches_placeCloseAll (before s : State) : Reaches s (State.placeCloseAll before s) := by
  rcases placeCloseAll_cases before s with ⟨-, -, h⟩ | ⟨-, h⟩ <;> rw [h]
  exact reaches_of_vital rfl

theorem reaches_settle (s : State) : Reaches s s.settle :=
  settle_induct (Reaches s) (fun _ ha _ _ h reached => Relation.ReflTransGen.trans reached (reaches_action ha h)) .refl

theorem vital_orderReady (before s : State) : vital (State.orderReady before s) = vital s := rfl

theorem vital_orderDue (before s : State) : vital (State.orderDue before s) = vital s := rfl

/-- The end of an event comes to changes. -/
theorem Reaches.finish {u : State} (h : Reaches s u) (before : State) : Reaches s (State.finish before u) := by
  have ready := Reaches.vital (h.trans (reaches_settle u)) (vital_orderReady before u.settle)
  have due := Reaches.vital (ready.trans (reaches_scheduleBurst _)) (vital_orderDue before _)
  exact due.trans (reaches_placeCloseAll before _)

theorem reaches_consequence {a : State → Option State} (ha : ∀ t, a s = some t → Reaches s t) : Reaches s (consequence a s) := by
  unfold consequence
  split
  · next t h => exact Reaches.finish (ha t h) s
  · exact .refl

end Sys2Proof.Proofs.ActionChanges

/-! PROOFS. The changes of the bank table: the steps on the memory pins, the ends of the intervals, and the returns (06). -/

namespace Sys2Proof.Proofs.BankChanges

open Sys2Proof Sys2Proof.Machine Sys2Proof.Safety Sys2Proof.Laws
open Sys2Proof.Proofs.Coherence Sys2Proof.Proofs.Changes Sys2Proof.Proofs.StreamChanges
open Sys2Proof.Proofs.ActionChanges Sys2Proof.Proofs.MoveEngine Sys2Proof.Proofs.Sequencing

variable {s t : State} {n : StreamId} {b : BankId}

/-! ### The bank table -/

theorem getElem_setBank (s : State) (b : BankId) (r : Bank) (c : BankId) :
    (s.setBank b r).seq.banks[c] = if c = b then r else s.seq.banks[c] := by
  by_cases h : c = b
  · subst h
    simp
  · have apart : b.val ≠ c.val := fun same => h (Fin.ext same.symm)
    simp [h, apart]

/-- One bank moves on in its states, with its owner. -/
theorem aside_setBank {r : Bank} (owner : r.owner = s.seq.banks[b].owner)
    (stores : r.state = .writing ∨ r.state = .recovering →
      (s.seq.banks[b].state = .writing ∨ s.seq.banks[b].state = .recovering) ∨
        ∃ o : OwnerRecord, s.seq.banks[b].owner = some o ∧ o.op = .store)
    (busy : busyBank r → busyBank s.seq.banks[b] ∨ s.seq.banks[b].owned = true)
    (burst : bursting r → bursting s.seq.banks[b] ∨ s.seq.dataBus = some b)
    (closed : s.seq.banks[b].state = .closed → s.seq.banks[b].owned = false → r.state = .closed) :
    Aside s (s.setBank b r) where
  streams := rfl
  slots := rfl
  claims := rfl
  entries := rfl
  engine := rfl
  memory := rfl
  owners c := by
    rw [getElem_setBank]
    split
    · next same => rw [owner, same]
    · rfl
  stores c h := by
    rw [getElem_setBank] at h
    split at h
    · next same => exact same ▸ stores h
    · exact .inl h
  command h := h
  debt h := h
  busy c h := by
    rw [getElem_setBank] at h
    split at h
    · next same => exact same ▸ busy h
    · exact .inl h
  bus held c h := by
    rw [getElem_setBank] at h
    split at h
    · next same =>
      subst same
      exact (burst h).elim (held c) id
    · exact held c h
  closed c h idle := by
    rw [getElem_setBank]
    split
    · next same =>
      subst same
      exact closed h idle
    · exact h
  wide h := .inl h
  started h := h

/-- A bank's record changes beside its state and owner. -/
theorem reaches_setBank_held {r : Bank} (state : r.state = s.seq.banks[b].state) (owner : r.owner = s.seq.banks[b].owner) :
    Reaches s (s.setBank b r) :=
  (Change.aside (aside_setBank owner (fun h => .inl (state ▸ h)) (fun h => .inl (by simpa only [busyBank, state] using h))
    (fun h => .inl (by simpa only [bursting, state] using h)) fun h _ => state.trans h)).reaches

/-- A bank comes to rest, OPEN or CLOSED, or goes on to close. -/
theorem reaches_setBank_rests {r : Bank} (owner : r.owner = s.seq.banks[b].owner) (from_ : s.seq.banks[b].state ≠ .closed)
    (rests : r.state = .opened ∨ r.state = .closed ∨ r.state = .closing) : Reaches s (s.setBank b r) := by
  refine (Change.aside (aside_setBank owner ?_ ?_ ?_ fun h => (from_ h).elim)).reaches <;>
    rcases rests with h | h | h <;> simp [busyBank, bursting, h]

/-- A bank sets out on an operation of its owner. -/
theorem reaches_setBank_owned {o : OwnerRecord} {r : Bank} (owner : r.owner = s.seq.banks[b].owner)
    (owned : s.seq.banks[b].owner = some o) (store : r.state = .writing ∨ r.state = .recovering → o.op = .store)
    (bus : bursting r → s.seq.dataBus = some b) : Reaches s (s.setBank b r) := by
  have isOwned : s.seq.banks[b].owned = true := congrArg Option.isSome owned
  refine (Change.aside (aside_setBank owner (fun h => .inr ⟨o, owned, store h⟩) (fun _ => .inr isOwned)
    (fun h => .inr (bus h)) fun _ h => ?_)).reaches
  rw [isOwned] at h
  cases h

theorem reaches_addDue (s : State) (b : BankId) (x : BankStep) : Reaches s (s.addDue b x) := by
  rcases addDue_cases s b x with ⟨-, h⟩ | ⟨-, h⟩ <;> rw [h]
  exact reaches_of_vital rfl

/-! ### The steps on the memory pins (R104, R105) -/

theorem vital_drive_popDue (s : State) (p : CommandPins) : vital (s.popDue.drive p) = vital s := rfl

theorem vital_withPins_popDue (s : State) (p : MemoryPins) :
    vital ((s.popDue.mapSeq fun q => { q with burstOrder := q.burstOrder.tail }).withPins p) = vital s := rfl

theorem openRowFor_some {o : OwnerRecord} (h : s.openRowFor b = some o) : s.seq.banks[b].owner = some o := by
  unfold State.openRowFor at h
  split at h
  · exact h
  · cases h

theorem reaches_stepOpenRow (b : BankId) (s : State) : Reaches s (stepOpenRow b s) := by
  unfold stepOpenRow
  split
  · next o found =>
    refine Reaches.vital ?_ (vital_drive_popDue _ _)
    exact reaches_setBank_owned rfl (openRowFor_some found) (by simp) (by simp [bursting])
  · exact .refl

theorem reaches_stepCloseRow (b : BankId) (s : State) : Reaches s (stepCloseRow b s) := by
  unfold stepCloseRow
  split
  · next ready =>
    have opened : s.seq.banks[b].state = .opened := by
      simp only [State.closeRowReady, Bool.and_eq_true, decide_eq_true_eq] at ready
      exact ready.2
    refine Reaches.vital ?_ (vital_drive_popDue _ _)
    exact reaches_setBank_rests rfl (by rw [opened]; decide) (.inr (.inr rfl))
  · exact .refl

theorem burstFor_some {o : OwnerRecord} {op : MemOp} (h : s.burstFor b op = some o) :
    s.seq.banks[b].owner = some o ∧ s.seq.dataBus = some b ∧ o.op = op := by
  unfold State.burstFor at h
  split at h
  · next o' owner =>
    rw [Option.ite_none_right_eq_some, Option.some_inj] at h
    obtain ⟨ready, rfl⟩ := h
    simp only [Bool.and_eq_true, decide_eq_true_eq] at ready
    exact ⟨owner, ready.1.2, ready.2⟩
  · cases h

theorem reaches_stepReadBurst (b : BankId) (s : State) : Reaches s (stepReadBurst b s) := by
  unfold stepReadBurst
  split
  · next o found =>
    obtain ⟨owner, bus, -⟩ := burstFor_some found
    refine Reaches.vital ?_ (vital_withPins_popDue _ _)
    exact reaches_setBank_owned rfl owner (by simp) fun _ => bus
  · exact .refl

theorem reaches_stepWriteBurst (b : BankId) (s : State) : Reaches s (stepWriteBurst b s) := by
  unfold stepWriteBurst
  split
  · next o found =>
    obtain ⟨owner, bus, op⟩ := burstFor_some found
    refine Reaches.vital ?_ (vital_withPins_popDue _ _)
    exact reaches_setBank_owned rfl owner (fun _ => op) fun _ => bus
  · exact .refl

theorem closeAll_state (r : Bank) (settle : Nat) :
    (r.closeAll settle).state = if r.state = .opened then .closing else r.state := by
  unfold Bank.closeAll
  split <;> rfl

theorem closeAll_owner (r : Bank) (settle : Nat) : (r.closeAll settle).owner = r.owner := by
  unfold Bank.closeAll
  split <;> rfl

/-- CLOSE ALL closes each OPEN bank and leaves the others (R119). -/
theorem aside_issueCloseAll (s : State) : Aside s s.issueCloseAll where
  streams := rfl
  slots := rfl
  claims := rfl
  entries := rfl
  engine := rfl
  memory := rfl
  owners c := by
    rw [State.issueCloseAll]
    simp [State.drive, closeAll_owner]
  stores c h := by
    rw [State.issueCloseAll] at h
    simp only [State.drive, withPins_seq, mapSeq_seq, Fin.getElem_fin, Vector.getElem_map, closeAll_state] at h
    split at h
    · rcases h with h | h <;> cases h
    · exact .inl h
  command h := h
  debt h := h
  busy c h := by
    rw [State.issueCloseAll] at h
    simp only [State.drive, withPins_seq, mapSeq_seq, busyBank, Fin.getElem_fin, Vector.getElem_map, closeAll_state] at h
    split at h
    · rcases h with h | h | h | h <;> cases h
    · exact .inl h
  bus held c h := by
    rw [State.issueCloseAll] at h
    simp only [State.drive, withPins_seq, mapSeq_seq, bursting, Fin.getElem_fin, Vector.getElem_map, closeAll_state] at h
    split at h
    · rcases h with h | h <;> cases h
    · exact held c h
  closed c h _ := by
    have still : s.seq.banks[c.val].state = .closed := h
    rw [State.issueCloseAll]
    simp [State.drive, closeAll_state, still]
  wide h := .inl h
  started h := h

theorem reaches_stepCloseAll (s : State) : Reaches s (stepCloseAll s) := by
  unfold stepCloseAll
  split
  · exact reaches_of_vital rfl
  · split
    · exact (Change.aside (aside_issueCloseAll s)).reaches
    · exact .refl

theorem allIdle_of_ready (h : s.renewAllReady = true) : AllIdle s := by
  simp only [State.renewAllReady, Bool.and_eq_true, Bool.not_eq_true'] at h
  obtain ⟨⟨⟨⟨-, closed⟩, unowned⟩, -⟩, -⟩ := h
  intro b
  refine ⟨(allClosed_iff s.seq).mp closed b, ?_⟩
  rw [Bank.owned, (anyOwner_eq_false_iff s.seq).mp unowned b]
  rfl

theorem aside_issueRenewAll (idle : AllIdle s) : Aside s s.issueRenewAll :=
  .of_banks rfl id id id (fun _ => .inr (.inr idle)) id

theorem aside_issueLoadOptions (notStarted : s.seq.memory ≠ .started) (closed : ∀ b : BankId, s.seq.banks[b].state = .closed) :
    Aside s s.issueLoadOptions :=
  .of_banks rfl id id id (fun _ => .inr (.inl ⟨notStarted, closed⟩)) id

theorem reaches_stepRenewAll (s : State) : Reaches s (stepRenewAll s) := by
  unfold stepRenewAll
  split
  · next ready =>
    exact (Change.aside (aside_issueRenewAll (allIdle_of_ready ready))).reaches
  · exact .refl

theorem reaches_stepLoadOptions (s : State) : Reaches s (stepLoadOptions s) := by
  unfold stepLoadOptions
  split
  · next ready =>
    simp only [State.loadOptionsReady, Bool.and_eq_true, decide_eq_true_eq] at ready
    obtain ⟨⟨⟨⟨-, starting⟩, closed⟩, -⟩, -⟩ := ready
    have notStarted : s.seq.memory ≠ .started := by
      rw [starting]
      decide
    exact (Change.aside (aside_issueLoadOptions notStarted ((allClosed_iff s.seq).mp closed))).reaches
  · exact .refl

/-! ### The ends of the intervals (R107) -/

theorem vital_idlePins (s : State) : vital s.idlePins = vital s := rfl

theorem vital_joinBurst (s : State) (b : BankId) : vital (s.mapSeq fun q => q.joinBurst b) = vital s := by
  unfold State.mapSeq Sequencer.joinBurst
  dsimp only
  split <;> rfl

theorem reaches_openSettleEnd (b : BankId) (s : State) : Reaches s (openSettleEnd b s) := by
  unfold openSettleEnd
  split
  · next opening =>
    have opened : Reaches s (s.setBank b { s.seq.banks[b] with state := .opened, left := 0 }) :=
      reaches_setBank_rests rfl (by rw [opening]; decide) (.inl rfl)
    have idle := opened.vital (vital_idlePins _)
    refine Reaches.finish ?_ s
    split
    · exact idle.vital (vital_joinBurst _ b)
    · exact idle
  · exact .refl

theorem reaches_closeSettleEnd (which : SettleOf) (s : State) : Reaches s (closeSettleEnd which s) := by
  unfold closeSettleEnd
  split
  · next b =>
    split
    · next closing =>
      have closed : Reaches s (s.setBank b { s.seq.banks[b] with state := .closed, left := 0 }) :=
        reaches_setBank_rests rfl (by rw [closing]; decide) (.inr (.inl rfl))
      have idle := closed.vital (vital_idlePins _)
      refine Reaches.finish ?_ s
      split
      · exact idle.trans (reaches_addDue _ b .openRow)
      · exact idle
    · exact .refl
  · split
    · exact reaches_of_vital rfl
    · exact .refl

/-- The eighth word is sent: the burst leaves the data bus (R114). -/
theorem aside_writeDataEnd (writing : s.seq.banks[b].state = .writing) :
    Aside s (s.setBank b { s.seq.banks[b] with state := .recovering, left := s.timing.writeRecovery }).freeBus where
  streams := rfl
  slots := rfl
  claims := rfl
  entries := rfl
  engine := rfl
  memory := rfl
  owners c := by
    rw [freeBus_seq, getElem_setBank]
    split
    · next same => rw [same]
    · rfl
  stores c h := by
    rw [freeBus_seq, getElem_setBank] at h
    split at h
    · next same => exact .inl (.inl (same ▸ writing))
    · exact .inl h
  command h := h
  debt h := h
  busy c h := by
    rw [freeBus_seq, getElem_setBank] at h
    split at h
    · next same => exact .inl (.inr (.inr (.inl (same ▸ writing))))
    · exact .inl h
  bus held c h := by
    rw [freeBus_seq, getElem_setBank] at h
    split at h
    · rcases h with h | h <;> cases h
    · next other =>
      have mine := held b (.inr writing)
      rw [held c h] at mine
      exact (other (Option.some.inj mine)).elim
  closed c h _ := by
    rw [freeBus_seq, getElem_setBank]
    split
    · next same =>
      subst same
      rw [writing] at h
      cases h
    · exact h
  wide h := .inl h
  started h := h

theorem reaches_writeDataEnd (b : BankId) (s : State) : Reaches s (writeDataEnd b s) := by
  unfold writeDataEnd
  split
  · next writing =>
    refine Reaches.finish ?_ s
    exact (Change.aside (aside_writeDataEnd writing)).reaches.vital rfl
  · exact .refl

/-- The memory-wide step ends (R120). -/
theorem aside_wideEnds (s : State) : Aside s (s.mapSeq fun q => { q with wide := .none, wideLeft := 0 }) :=
  .of_banks rfl id id id (fun h => (h rfl).elim) id

theorem aside_completeRenewal (s : State) : Aside s s.completeRenewal := by
  unfold State.completeRenewal
  split
  · exact .of_banks rfl id id (fun few => Nat.le_trans (Nat.sub_le _ _) few) .inl id
  · exact .of_vital rfl

theorem aside_memoryStarted (s : State) : Aside s s.memoryStarted :=
  .of_banks rfl id (fun h => by cases h) (fun _ => Nat.zero_le 8) .inl fun h => (h rfl).elim

theorem vital_withStartUp (s : State) (p : StartUp) : vital (s.withStartUp p) = vital s := rfl

theorem reaches_renewalComplete (s : State) : Reaches s (renewalComplete s) := by
  unfold renewalComplete
  split
  · refine Reaches.finish ?_ s
    have ended := (Change.aside (aside_wideEnds s)).reaches.vital (vital_withStartUp _ s.startUp.afterRenew)
    exact Reaches.vital (ended.tail (.aside (aside_completeRenewal _))) (vital_idlePins _)
  · exact .refl

theorem reaches_optionLoadEnd (s : State) : Reaches s (optionLoadEnd s) := by
  have ended : Reaches s s.endLoad := (Change.aside (aside_wideEnds s)).reaches.vital (vital_idlePins _)
  unfold optionLoadEnd
  split
  · split
    · exact ended.tail (.aside (aside_memoryStarted _))
    · exact ended
  · exact .refl

/-! ### Fetch return and store completion (R113, R114) -/

/-- A discard mark on an owner record, if it is the fetch's into the slot (R118). -/
def markedOwner (k : SlotId) (o : Option OwnerRecord) : Option OwnerRecord :=
  o.map fun r => if r.op = .fetch ∧ r.slot = k then { r with discard := true } else r

theorem markDiscard_owner (k : SlotId) (r : Bank) : (Bank.markDiscard k r).owner = markedOwner k r.owner := by
  unfold Bank.markDiscard markedOwner
  split
  · next o owner =>
    rw [owner, Option.map_some]
    split
    · rfl
    · exact owner
  · next owner =>
    rw [owner]
    rfl

/-- A release of a bank, in the vital part (R115). -/
def releaseBankIn (v : Vital) (b : BankId) : Vital :=
  { v with banks := fun c => if c = b then (.opened, none) else v.banks c }

/-- The letting go of a read entry, in the vital part (R44). -/
def letGoIn (v : Vital) (e : ReadEntry) : Vital :=
  if e.state = .inFlight then
    { v with
      slots := v.slots.set e.slot.val { v.slots[e.slot] with owner := .discard }
      banks := fun c => if c = bankOf e.line then ((v.banks c).1, markedOwner e.slot (v.banks c).2) else v.banks c }
  else { v with slots := v.slots.set e.slot.val { v.slots[e.slot] with owner := .free } }

theorem vital_releaseBank (s : State) (b : BankId) : vital (s.releaseBank b) = releaseBankIn (vital s) b := by
  rw [releaseBank_keeps]
  simp only [vital, releaseBankIn, Vital.mk.injEq, true_and, and_true]
  funext c
  have here := getElem_setBank s b { s.seq.banks[b] with state := .opened, owner := none, left := 0, closeDue := false } c
  rw [setBank_seq] at here
  rw [here]
  split <;> rfl

theorem vital_releaseEntry (s : State) (e : ReadEntry) : vital (s.releaseEntry e) = letGoIn (vital s) e := by
  unfold State.releaseEntry letGoIn
  split
  · next state =>
    rw [if_neg (by rw [state]; decide)]
    rfl
  · next state =>
    rw [if_neg (by rw [state]; decide)]
    rfl
  · next state =>
    rw [if_pos state]
    have banks : (fun c : BankId => ((s.discardFetch e.line e.slot).seq.banks[c].state,
        (s.discardFetch e.line e.slot).seq.banks[c].owner)) = fun c => if c = bankOf e.line
          then (s.seq.banks[c].state, markedOwner e.slot s.seq.banks[c].owner)
          else (s.seq.banks[c].state, s.seq.banks[c].owner) := by
      funext c
      rw [State.discardFetch, own_seq, getElem_setBank]
      split
      · next same =>
        subst same
        rw [(markDiscard_keeps _ _).1, markDiscard_owner]
      · rfl
    simp only [vital]
    rw [banks]
    rfl

theorem vital_releaseEntries (es : List ReadEntry) (s : State) :
    vital (s.releaseEntries es) = es.foldl letGoIn (vital s) := by
  induction es generalizing s with
  | nil => rfl
  | cons e es ih => rw [releaseEntries_cons, ih, vital_releaseEntry, List.foldl_cons]

/-- The release of a bank at a fetch's return, in the vital part (R112, R115). -/
def releasedIn (b : BankId) (v : Vital) : Vital := releaseBankIn { v with dataBus := none } b

theorem vital_released (s : State) (b : BankId) : vital (released s b) = releasedIn b (vital s) :=
  vital_releaseBank s.freeBus b

/-- A mark on the owner of a bank that is released makes no difference. -/
theorem releasedIn_letGoIn (v : Vital) (b : BankId) (e : ReadEntry) :
    releasedIn b (letGoIn v e) = letGoIn (releasedIn b v) e := by
  unfold letGoIn
  split
  · simp only [releasedIn, releaseBankIn, Vital.mk.injEq, true_and, and_true]
    funext c
    by_cases released : c = b
    · simp [released, markedOwner]
    · simp [released]
  · rfl

theorem releasedIn_foldl (es : List ReadEntry) (v : Vital) (b : BankId) :
    releasedIn b (es.foldl letGoIn v) = es.foldl letGoIn (releasedIn b v) := by
  induction es generalizing v with
  | nil => rfl
  | cons e es ih => rw [List.foldl_cons, ih, releasedIn_letGoIn, List.foldl_cons]

/-- An advance lets some entries of the stream go and leaves it a context, both by the stream alone (R45). -/
theorem vital_advanceRead (n : StreamId) (r : ReadStream) : ∃ (es : List ReadEntry) (q : ReadStream), ∀ s : State,
    vital (s.advanceRead n r) = { es.foldl letGoIn (vital s) with streams := s.streams.set n.val (.read q) } := by
  have form (s : State) (es : List ReadEntry) (q : ReadStream) :
      vital ((s.releaseEntries es).setStream n (.read q)) =
        { es.foldl letGoIn (vital s) with streams := s.streams.set n.val (.read q) } := by
    rw [← vital_releaseEntries, ← releaseEntries_streams s es]
    rfl
  simp only [State.advanceRead]
  split
  · split
    · exact ⟨_, _, fun s => (rfl : vital (State.mapFlags _ _ _) = _).trans (form s _ _)⟩
    · exact ⟨_, _, fun s => (rfl : vital (State.mapFlags _ _ _) = _).trans (form s _ _)⟩
  · exact ⟨_, _, fun s => form s _ _⟩

theorem released_keeps (s : State) (b : BankId) :
    (released s b).bus = s.bus ∧ (released s b).streams = s.streams := by
  unfold released
  rw [releaseBank_keeps]
  exact ⟨rfl, rfl⟩

/-- The release of a bank goes before the answer of a stretched read as well as after it. -/
theorem vital_released_answerWaitingRead (s : State) (n : StreamId) (b : BankId) :
    vital (released (s.answerWaitingRead n) b) = vital ((released s b).answerWaitingRead n) := by
  obtain ⟨bus, streams⟩ := released_keeps s b
  unfold State.answerWaitingRead
  rw [bus, streams]
  split
  · split
    · next r _ =>
      split
      · obtain ⟨es, q, form⟩ := vital_advanceRead n r
        have delivered (u : State) : vital (u.deliver n r) = vital (u.advanceRead n r) := rfl
        rw [vital_released, delivered, delivered, form, form, vital_released, ← releasedIn_foldl, streams]
        rfl
      · rfl
    · rfl
    · rfl
  · rfl

theorem reaches_endFetch {o : OwnerRecord} (reading : s.seq.banks[b].state = .reading)
    (owner : s.seq.banks[b].owner = some o) (op : o.op = .fetch) : Reaches s (s.endFetch b o) := by
  unfold State.endFetch State.takeReturn
  refine Reaches.finish ?_ s
  refine Reaches.vital ?_ (vital_idlePins _)
  split
  · next discard => exact (Change.returnDiscarded reading owner op discard).reaches
  · next kept =>
    have kept : o.discard = false := by simpa using kept
    unfold State.handOn
    dsimp only
    split
    · next below =>
      unfold State.entryReturn
      split
      · next r read =>
        refine Reaches.vital ?_ (vital_released_answerWaitingRead _ _ b)
        exact (Change.returnEntry reading owner op kept (n := ⟨o.position.val, below⟩) rfl read).reaches.trans
          (reaches_answerWaitingRead _ _)
      · next w write =>
        exact (Change.returnLost reading owner op kept (n := ⟨o.position.val, below⟩) rfl (by simp [write])).reaches
      · next closed =>
        exact (Change.returnLost reading owner op kept (n := ⟨o.position.val, below⟩) rfl (by simp [closed])).reaches
    · next above => exact (Change.returnBuffer reading owner op kept above).reaches

theorem reaches_endStore {o : OwnerRecord} (recovering : s.seq.banks[b].state = .recovering)
    (owner : s.seq.banks[b].owner = some o) (op : o.op = .store) : Reaches s (s.endStore b o) := by
  unfold State.endStore
  refine Reaches.finish ?_ s
  refine (Change.store recovering owner op).reaches.vital ?_
  rw [vital_idlePins, vital_releaseBank, vital_releaseBank]
  unfold State.reportSync
  split <;> rfl

end Sys2Proof.Proofs.BankChanges

/-! PROOFS. The changes that the rows come to: the bus accesses with the commands (R163), the timers, the /RESET pin;
and so every step. -/

namespace Sys2Proof.Proofs.StepChanges

open Sys2Proof Sys2Proof.Machine Sys2Proof.Safety Sys2Proof.Laws
open Sys2Proof.Proofs.Coherence Sys2Proof.Proofs.Changes Sys2Proof.Proofs.StreamChanges
open Sys2Proof.Proofs.ActionChanges Sys2Proof.Proofs.BankChanges Sys2Proof.Proofs.MoveEngine

variable {s t : State} {n : StreamId} {b : BankId} {p : Params}

/-! ### OPEN_READ and OPEN_WRITE (R9, R10) -/

/-- The context that an OPEN makes holds no slot. -/
theorem empty_readContext {w : Window} {c : Stream} (h : p.readContext = some (w, c)) : StreamEmpty c := by
  unfold Params.readContext at h
  split at h
  · cases h
    exact empty_read rfl (lineOf_mod _)
  all_goals cases h

theorem empty_writeContext {w : Window} {c : Stream} (h : p.writeContext = some (w, c)) : StreamEmpty c := by
  unfold Params.writeContext at h
  split at h
  · cases h
    exact empty_write rfl
  · cases h

theorem reaches_opened {c : Stream} (awake : s.port.state ≠ .resetting) (closed : s.streams[n] = .closed)
    (empty : StreamEmpty c) : Reaches s (s.setStream n c) :=
  (Change.stream (fun h => (awake h).elim) (closed ▸ turns_of_empty rfl rfl empty)).reaches

theorem reaches_openStream {made : Option (Window × Stream)} (awake : s.port.state ≠ .resetting)
    (empty : ∀ w c, made = some (w, c) → StreamEmpty c) : Reaches s (s.openStream p made) := by
  unfold State.openStream
  split
  · exact Reaches.complete .refl _
  · split
    · next w c closed =>
      unfold State.openContext
      split
      · exact Reaches.complete .refl _
      · split
        · exact Reaches.finish ((reaches_opened awake closed (empty w c rfl)).complete .ok) s
        · exact Reaches.complete .refl _
    all_goals exact Reaches.complete .refl _

/-! ### SEEK, FLUSH and CLOSE -/

theorem reaches_runSeek (p : Params) (s : State) : Reaches s (runSeek p s) := by
  unfold runSeek
  split
  · exact Reaches.complete .refl _
  · split
    · exact Reaches.complete .refl _
    · next r read =>
      split
      · exact Reaches.finish ((reaches_seekRead read p.target).complete .ok) s
      · exact Reaches.complete .refl _
    · next w write =>
      split
      · exact Reaches.finish (reaches_writeStreamCommand write (by decide) p) s
      · exact Reaches.complete .refl _

theorem reaches_runFlush (p : Params) (s : State) : Reaches s (runFlush p s) := by
  unfold runFlush
  split
  · exact Reaches.complete .refl _
  · split
    · exact Reaches.complete .refl _
    · exact Reaches.complete .refl _
    · next w write => exact Reaches.finish (reaches_writeStreamCommand write (by decide) p) s

theorem reaches_runClose (p : Params) (s : State) : Reaches s (runClose p s) := by
  unfold runClose
  split
  · exact Reaches.complete .refl _
  · split
    · exact Reaches.complete .refl _
    · next r read => exact Reaches.finish ((reaches_closeRead read).complete .ok) s
    · next w write => exact Reaches.finish (reaches_writeStreamCommand write (by decide) p) s

/-! ### SYNC, the job commands and the settings -/

theorem reaches_runSync (s : State) : Reaches s (runSync s) := by
  unfold runSync State.tagOrReport
  refine Reaches.complete ?_ .ok
  split
  · exact reaches_of_vital rfl
  · exact (Change.tagAll s).reaches

theorem reaches_engineCommand {e : Engine} (awake : s.port.state ≠ .resetting) (turns : EngineTurns s.engine e) :
    Reaches s (s.withEngine e) := (Change.engine (fun h => (awake h).elim) turns).reaches

theorem reaches_runSubmitJob (awake : s.port.state ≠ .resetting) (p : Params) : Reaches s (runSubmitJob p s) := by
  unfold runSubmitJob
  split
  · exact Reaches.complete .refl _
  · next j _ =>
    split
    · exact Reaches.complete .refl _
    · split
      · exact Reaches.complete .refl _
      · split
        · exact Reaches.complete .refl _
        · next room =>
          have longer : (s.engine.jobs ++ [j]).length ≤ 4 := by
            have room : s.engine.jobs.length < 4 := Nat.lt_of_not_le room
            simp only [List.length_append, List.length_singleton]
            omega
          have submitted : Reaches s (s.submit j) :=
            reaches_engineCommand awake (turns_of_held rfl rfl (fun _ => longer) id)
          exact Reaches.finish (submitted.complete .ok) s

/-- The records of a cancelled tag's queued jobs have places (R156, check 2). -/
theorem turns_removeQueued {e : Engine} {tag : Byte} (room : ¬ e.freePlaces < (e.queuedWith tag).length) :
    EngineTurns e (e.removeQueued tag) := by
  refine turns_of_held rfl rfl (fun few => Nat.le_trans (List.length_filter_le _ _) few) fun few => ?_
  have places : e.freePlaces ≤ 4 - e.completions.length := by
    unfold Engine.freePlaces
    split <;> simp [Config.jobPlaces]
  simp only [Engine.removeQueued, List.length_append, List.length_map]
  omega

theorem turns_cancelActive (e : Engine) (tag : Byte) : EngineTurns e (e.cancelActive tag) := by
  unfold Engine.cancelActive
  split
  · exact (turns_mapActive e _).trans (turns_withdrawRequest _)
  · exact turns_of_held rfl rfl id id

theorem vital_writeResults (s : State) (r : Vector Byte 8) : vital (s.writeResults r) = vital s := rfl

theorem reaches_runCancelJob (awake : s.port.state ≠ .resetting) (p : Params) : Reaches s (runCancelJob p s) := by
  unfold runCancelJob
  dsimp only
  split
  · exact Reaches.complete .refl _
  · split
    · exact Reaches.complete .refl _
    · next room =>
      have turned := reaches_engineCommand awake ((turns_removeQueued room).trans (turns_cancelActive _ p[0]))
      exact Reaches.finish ((turned.vital (vital_writeResults _ _)).complete .ok) s

theorem turns_takeHead {e : Engine} {r : CompletionRecord} {rest : List CompletionRecord}
    (head : e.completions = r :: rest) : EngineTurns e (e.takeHead rest) := by
  have count : e.completions.length = rest.length + 1 := by rw [head, List.length_cons]
  unfold Engine.takeHead
  split
  · refine turns_of_held rfl rfl id fun few => ?_
    simp only [List.length_append, List.length_singleton]
    omega
  all_goals
    refine turns_of_held rfl rfl id fun few => ?_
    simp only
    omega

theorem reaches_runTakeCompletion (awake : s.port.state ≠ .resetting) : Reaches s (runTakeCompletion s) := by
  unfold runTakeCompletion
  split
  · exact Reaches.complete .refl _
  · next r rest head =>
    have turned := reaches_engineCommand awake (turns_takeHead head)
    exact Reaches.finish ((turned.vital (vital_writeResults _ _)).complete .ok) s

theorem aside_beginStartUp (unstarted : s.seq.memory = .unstarted) : Aside s s.beginStartUp :=
  .of_banks rfl id id id .inl fun _ => by
    rw [unstarted]
    decide

theorem reaches_runMemStart (p : Params) (s : State) : Reaches s (runMemStart p s) := by
  unfold runMemStart
  split
  · exact Reaches.complete .refl _
  · next unstarted =>
    exact (Change.aside (aside_beginStartUp (not_not.mp unstarted))).reaches.stayExecuting .memStart p

theorem reaches_runSetTiming (p : Params) (s : State) : Reaches s (runSetTiming p s) := by
  unfold runSetTiming
  split
  · exact Reaches.complete .refl _
  · split
    · exact Reaches.complete .refl _
    · next t _ =>
      have set : Reaches s (s.withTiming t) := reaches_of_vital rfl
      exact set.complete .ok

theorem reaches_runSetClock (p : Params) (s : State) : Reaches s (runSetClock p s) := by
  unfold runSetClock
  split
  · exact Reaches.complete .refl _
  · next d _ =>
    have set : Reaches s (s.withClock { s.clock with nextDivisor := some d }) := reaches_of_vital rfl
    exact set.complete .ok

theorem reaches_runQueryStream (p : Params) (s : State) : Reaches s (runQueryStream p s) := by
  unfold runQueryStream
  split
  · exact Reaches.complete .refl _
  · next n _ =>
    have written : Reaches s (s.writeResults s.streams[n].picture) := reaches_of_vital rfl
    exact written.complete .ok

theorem reaches_ite {c : Prop} [Decidable c] {a b : State} (yes : Reaches s a) (no : Reaches s b) :
    Reaches s (if c then a else b) := by
  split
  · exact yes
  · exact no

/-- Every command comes to changes (R163). -/
theorem reaches_runCommand (awake : s.port.state ≠ .resetting) (code : Byte) (p : Params) : Reaches s (runCommand code p s) := by
  unfold runCommand
  refine reaches_ite (reaches_openStream awake fun w c => empty_readContext) ?_
  refine reaches_ite (reaches_openStream awake fun w c => empty_writeContext) ?_
  refine reaches_ite (reaches_runSeek p s) (reaches_ite (reaches_runFlush p s) ?_)
  refine reaches_ite (reaches_runClose p s) (reaches_ite (reaches_runQueryStream p s) ?_)
  refine reaches_ite (reaches_runSync s) (reaches_ite (reaches_runSubmitJob awake p) ?_)
  refine reaches_ite (reaches_runCancelJob awake p) (reaches_ite (reaches_runTakeCompletion awake) ?_)
  refine reaches_ite (reaches_runSetTiming p s) (reaches_ite (reaches_runMemStart p s) ?_)
  exact reaches_ite (reaches_runSetClock p s) (Reaches.complete .refl _)

theorem reaches_commandWrite (code : Byte) (s : State) : Reaches s (commandWrite code s) := by
  unfold commandWrite
  split
  · next idle =>
    refine reaches_runCommand ?_ code _
    rw [idle]
    exact nofun
  · exact reaches_of_vital rfl
  · exact .refl

theorem reaches_controlWrite (v : Byte) (s : State) : Reaches s (controlWrite v s) := by
  unfold controlWrite
  split
  · exact Reaches.finish (Change.enterResetting s).reaches s
  · exact .refl

/-! ### Bus accesses (R181) -/

theorem reaches_registerWrite (p : Position) (v : Byte) (s : State) : Reaches s (registerWrite p v s) := by
  unfold registerWrite
  split
  · exact reaches_of_vital rfl
  · exact reaches_commandWrite v s
  · exact reaches_of_vital rfl
  · exact reaches_of_vital rfl
  · exact reaches_of_vital rfl
  · exact reaches_of_vital rfl
  · exact reaches_controlWrite v s
  · exact reaches_of_vital rfl
  all_goals exact .refl

theorem vital_starvedRead (s : State) (n : StreamId) (r : ReadStream) : vital (s.starvedRead n r) = vital s := by
  unfold State.starvedRead
  split
  · rfl
  · split <;> rfl

theorem reaches_dataRead (n : StreamId) (s : State) : Reaches s (dataRead n s) := by
  unfold dataRead
  split
  · exact reaches_of_vital rfl
  · split
    · exact reaches_of_vital rfl
    · exact reaches_of_vital rfl
    · next r read =>
      split
      · exact Reaches.finish (reaches_deliver read) s
      · exact reaches_of_vital (vital_starvedRead s n r)

theorem reaches_writeStreamWrite {w : WriteStream} (write : s.streams[n] = .write w) (v : Byte) :
    Reaches s (writeStreamWrite n w v s) := by
  unfold writeStreamWrite
  split
  · exact Reaches.finish (reaches_writeInOpen write v) s
  all_goals exact reaches_of_vital (writeTurnedAway_vital s n w v)

theorem reaches_dataWrite (n : StreamId) (v : Byte) (s : State) : Reaches s (dataWrite n v s) := by
  have answered : Reaches s (s.withBus (.answered none)) := reaches_of_vital rfl
  unfold dataWrite
  dsimp only
  split
  · exact answered
  · split
    · exact reaches_of_vital rfl
    · exact reaches_of_vital rfl
    · next w write => exact answered.trans (reaches_writeStreamWrite (s := s.withBus (.answered none)) write v)

theorem reaches_busAccess (p : Position) (a : Access) (s : State) : Reaches s (busAccess p a s) := by
  unfold busAccess
  split
  · unfold busRead
    split
    · split
      · exact reaches_dataRead _ s
      all_goals exact reaches_of_vital rfl
    · exact .refl
  · next v =>
    have answered : Reaches s (s.withBus (.answered none)) := reaches_of_vital rfl
    unfold busWrite
    split
    · split
      · exact reaches_dataWrite _ v s
      all_goals exact answered.trans (reaches_registerWrite _ v _)
    · exact .refl

/-! ### The ends of a cycle, the timers and the pins (R63, R117, R133, R182, R187) -/

theorem reaches_strobeRemoved (s : State) : Reaches s (strobeRemoved s) := by
  unfold strobeRemoved
  split
  · refine reaches_of_vital ?_
    unfold State.loseAccess
    split <;> rfl
  · exact .refl
  · exact .refl

theorem reaches_stretchExpiry (s : State) : Reaches s (stretchExpiry s) := by
  unfold stretchExpiry
  split
  · refine reaches_of_vital ?_
    unfold State.loseAccess
    split <;> rfl
  all_goals exact .refl

theorem reaches_busCycleEnd (s : State) : Reaches s (busCycleEnd s) := by
  unfold busCycleEnd
  split
  · exact reaches_of_vital rfl
  all_goals exact .refl

theorem reaches_lingerExpiry (n : StreamId) (s : State) : Reaches s (lingerExpiry n s) := by
  unfold lingerExpiry
  split
  · next w write =>
    split
    · exact Reaches.finish (reaches_lingerPost write) s
    · exact .refl
  all_goals exact .refl

theorem reaches_rowAgeExpiry (b : BankId) (s : State) : Reaches s (rowAgeExpiry b s) := by
  unfold rowAgeExpiry
  split
  · split
    · exact reaches_setBank_held rfl rfl
    · have stopped : Reaches s (s.setBank b { s.seq.banks[b] with rowAge := none }) := reaches_setBank_held rfl rfl
      refine Reaches.finish ?_ s
      unfold State.ageClose
      dsimp only
      split
      · exact stopped.trans (reaches_addDue _ b .closeRow)
      · exact stopped
  · exact .refl

theorem aside_oweRenewal (s : State) : Aside s s.oweRenewal := by
  unfold State.oweRenewal
  split
  · next below => exact .of_banks rfl id id (fun _ => below) .inl id
  · exact .of_vital rfl

theorem reaches_renewalIntervalExpiry (s : State) : Reaches s (renewalIntervalExpiry s) := by
  unfold renewalIntervalExpiry
  split
  · have restarted : Reaches s s.restartInterval := reaches_of_vital rfl
    exact Reaches.finish (restarted.tail (.aside (aside_oweRenewal _))) s
  · exact .refl

theorem reaches_settleEnd (s : State) : Reaches s (settleEnd s) := by
  unfold settleEnd
  split
  · exact reaches_of_vital rfl
  · exact .refl

theorem reaches_pinReset (s : State) : Reaches s (pinReset s) := by
  unfold pinReset
  split
  · exact .refl
  · exact (Change.fall s).reaches

theorem reaches_pinResetRelease (s : State) : Reaches s (pinResetRelease s) := by
  unfold pinResetRelease
  split
  · exact (Change.rise s).reaches
  · exact .refl

/-- A boundary counts the linger timers, which hold no slot (R63). -/
theorem turns_countBoundary (c : Stream) : StreamTurns c c.countBoundary := by
  cases c with
  | write w => exact turns_write rfl .inr
  | read r => exact turns_read rfl rfl id
  | closed => exact turns_of_empty rfl rfl empty_closed

/-- The streams of a list count the boundary, one after the other. -/
def countStreams (ns : List StreamId) (s : State) : State :=
  ns.foldl (fun u n => u.setStream n u.streams[n].countBoundary) s

theorem reaches_countStreams (ns : List StreamId) (s : State) : Reaches s (countStreams ns s) := by
  induction ns generalizing s with
  | nil => exact .refl
  | cons n ns ih =>
    refine Relation.ReflTransGen.trans (Change.stream (fun _ => ?_) (turns_countBoundary _)).reaches (ih _)
    cases s.streams[n] with
    | closed => exact .inr rfl
    | read r => exact .inl nofun
    | write w => exact .inl nofun

theorem vital_countStreams (ns : List StreamId) (s : State) :
    vital (countStreams ns s) = { vital s with streams := (countStreams ns s).streams } := by
  induction ns generalizing s with
  | nil => rfl
  | cons n ns ih => exact ih (s.setStream n s.streams[n].countBoundary)

theorem countStreams_streams {ns : List StreamId} (distinct : ns.Nodup) (s : State) (n : StreamId) :
    (countStreams ns s).streams[n] = if n ∈ ns then s.streams[n].countBoundary else s.streams[n] := by
  induction ns generalizing s with
  | nil => simp [countStreams]
  | cons m ns ih =>
    obtain ⟨fresh, distinct⟩ := List.nodup_cons.mp distinct
    rw [show countStreams (m :: ns) s = countStreams ns (s.setStream m s.streams[m].countBoundary) from rfl, ih distinct]
    by_cases same : n = m
    · subst same
      rw [if_neg fresh, if_pos List.mem_cons_self, setStream_same]
    · rw [setStream_other _ _ same]
      simp only [List.mem_cons, same, false_or]

theorem vital_microsecondBoundary (s : State) :
    vital (microsecondBoundary s) = vital (countStreams (List.finRange 8) s) := by
  have counted : (microsecondBoundary s).streams = (countStreams (List.finRange 8) s).streams := by
    refine Vector.ext fun i hi => ?_
    have each := countStreams_streams (List.nodup_finRange 8) s ⟨i, hi⟩
    rw [if_pos (List.mem_finRange _)] at each
    exact (Vector.getElem_map ..).trans each.symm
  have banks : (vital (microsecondBoundary s)).banks = (vital s).banks := by
    funext b
    simp [vital, microsecondBoundary, Bank.countBoundary]
  rw [vital_countStreams, ← counted, show vital (microsecondBoundary s) =
    { vital s with streams := (microsecondBoundary s).streams, banks := (vital (microsecondBoundary s)).banks } from rfl, banks]

theorem reaches_microsecondBoundary (s : State) : Reaches s (microsecondBoundary s) :=
  (reaches_countStreams _ s).vital (vital_microsecondBoundary s)

/-! ### The rows and the step -/

theorem reaches_whileRunning {f : State → State} (ran : Reaches s (f s)) : Reaches s (whileRunning f s) := by
  unfold whileRunning
  split
  · exact .refl
  · exact ran

theorem reaches_opportunisticRenewal (h : opportunisticRenewal s = some t) : Reaches s t := by
  unfold opportunisticRenewal at h
  split at h
  · cases h
    exact reaches_of_vital rfl
  · cases h

theorem reaches_consequenceRow {a : State → Option State} (ha : ∀ t, a s = some t → Reaches s t) :
    Reaches s (whileRunning (consequence a) s) := reaches_whileRunning (reaches_consequence ha)

theorem readingOwner_eq_some {o : OwnerRecord} : s.readingOwner b = some o ↔
    s.seq.banks[b].state = .reading ∧ s.seq.banks[b].owner = some o := by
  unfold State.readingOwner
  exact Option.ite_none_right_eq_some

theorem recoveringOwner_eq_some {o : OwnerRecord} : s.recoveringOwner b = some o ↔
    s.seq.banks[b].state = .recovering ∧ s.seq.banks[b].owner = some o := by
  unfold State.recoveringOwner
  exact Option.ite_none_right_eq_some

theorem reaches_fetchReturn (h : execFetchReturn b s = .next t) : Reaches s t := by
  unfold execFetchReturn ownerEnds at h
  split at h
  · cases h
    exact .refl
  · split at h
    · cases h
      exact .refl
    · next o reading =>
      obtain ⟨state, owner⟩ := readingOwner_eq_some.mp reading
      split at h
      · cases h
        exact .refl
      · next op =>
        split at h
        · cases h
          exact reaches_endFetch state owner (not_not.mp op)
        · cases h

theorem reaches_storeComplete (h : execStoreComplete b s = .next t) : Reaches s t := by
  unfold execStoreComplete ownerEnds at h
  split at h
  · cases h
    exact .refl
  · split at h
    · cases h
      exact .refl
    · next o recovering =>
      obtain ⟨state, owner⟩ := recoveringOwner_eq_some.mp recovering
      split at h
      · cases h
        exact .refl
      · next op =>
        split at h
        · cases h
          exact reaches_endStore state owner (not_not.mp op)
        · cases h

theorem reaches_row {u : State} (h : (Host.Outcome.next u : Host.Outcome State Fault Refusal) = .next t) (ran : Reaches s u) :
    Reaches s t := by
  cases h
  exact ran

/-- Every row comes to changes. -/
theorem reaches_exec {i : Instr} (h : exec i s = .next t) : Reaches s t := by
  cases access : busAccessOf i with
  | some x => exact reaches_row ((exec_access access s).symm.trans h) (reaches_busAccess ..)
  | none =>
    cases i with
    | strobeRemovedEarly => exact reaches_row h (reaches_whileRunning (reaches_strobeRemoved s))
    | stretchTimerExpiry => exact reaches_row h (reaches_whileRunning (reaches_stretchExpiry s))
    | busCycleEnd => exact reaches_row h (reaches_whileRunning (reaches_busCycleEnd s))
    | lingerExpiry n => exact reaches_row h (reaches_whileRunning (reaches_lingerExpiry n s))
    | rowAgeExpiry b => exact reaches_row h (reaches_whileRunning (reaches_rowAgeExpiry b s))
    | renewalIntervalExpiry => exact reaches_row h (reaches_whileRunning (reaches_renewalIntervalExpiry s))
    | settleEnd => exact reaches_row h (reaches_whileRunning (reaches_settleEnd s))
    | microsecondBoundary => exact reaches_row h (reaches_whileRunning (reaches_microsecondBoundary s))
    | pinReset => exact reaches_row h (reaches_pinReset s)
    | pinResetRelease => exact reaches_row h (reaches_pinResetRelease s)
    | openRow b => exact reaches_row h (reaches_whileRunning (reaches_stepOpenRow b s))
    | closeRow b => exact reaches_row h (reaches_whileRunning (reaches_stepCloseRow b s))
    | closeAll => exact reaches_row h (reaches_whileRunning (reaches_stepCloseAll s))
    | readBurst b => exact reaches_row h (reaches_whileRunning (reaches_stepReadBurst b s))
    | writeBurst b => exact reaches_row h (reaches_whileRunning (reaches_stepWriteBurst b s))
    | renewAll => exact reaches_row h (reaches_whileRunning (reaches_stepRenewAll s))
    | loadOptions => exact reaches_row h (reaches_whileRunning (reaches_stepLoadOptions s))
    | openSettleEnd b => exact reaches_row h (reaches_whileRunning (reaches_openSettleEnd b s))
    | closeSettleEnd w => exact reaches_row h (reaches_whileRunning (reaches_closeSettleEnd w s))
    | writeDataEnd b => exact reaches_row h (reaches_whileRunning (reaches_writeDataEnd b s))
    | renewalComplete => exact reaches_row h (reaches_whileRunning (reaches_renewalComplete s))
    | optionLoadEnd => exact reaches_row h (reaches_whileRunning (reaches_optionLoadEnd s))
    | fetchReturn b => exact reaches_fetchReturn h
    | storeComplete b => exact reaches_storeComplete h
    | slotGrant => exact reaches_row h (reaches_consequenceRow fun _ => reaches_slotGrant)
    | requestGrant => exact reaches_row h (reaches_consequenceRow fun _ => reaches_requestGrant)
    | heldPostAcceptance => exact reaches_row h (reaches_consequenceRow fun _ => reaches_action (by simp [settleActions]))
    | drainComplete => exact reaches_row h (reaches_consequenceRow fun _ => reaches_drainComplete)
    | opportunisticRenewal => exact reaches_row h (reaches_consequenceRow fun _ => reaches_opportunisticRenewal)
    | resettingEnd => exact reaches_row h (reaches_consequenceRow fun _ => reaches_resettingEnd)
    | jobStart => exact reaches_row h (reaches_consequenceRow fun _ => reaches_jobStart)
    | destinationLineBuild => exact reaches_row h (reaches_consequenceRow fun _ => reaches_destinationLineBuild)
    | scanExamination => exact reaches_row h (reaches_consequenceRow fun _ => reaches_scanExamination)
    | compareChunk => exact reaches_row h (reaches_consequenceRow fun _ => reaches_compareChunk)
    | jobEnd => exact reaches_row h (reaches_consequenceRow fun _ => reaches_jobEnd)
    | _ => cases access

theorem vital_countClk (s : State) : vital s.countClk = vital s := by
  have banks : (vital s.countClk).banks = (vital s).banks := by
    funext b
    simp [vital, State.countClk, Sequencer.countClk, Bank.countClk]
  rw [show vital s.countClk = { vital s with banks := (vital s.countClk).banks } from rfl, banks]

/-- What a step comes to is changes. -/
theorem reaches_step (h : step s = .next t) : Reaches s t :=
  step_induct (Reaches s) (fun _ _ _ row reached => reached.trans (reaches_exec row))
    (fun u reached => reached.vital (vital_countClk u)) (fun _ _ reached => reached.vital rfl)
    (fun _ _ reached => reached.vital rfl) (fun _ _ _ reached => reached.vital rfl) h .refl

/-- What every change keeps, a step keeps. -/
theorem step_keeps {P : State → Prop} (change : ∀ s t, Change s t → P s → P t) (h : step s = .next t) (hs : P s) : P t := by
  have reached := reaches_step h
  clear h
  induction reached with
  | refl => exact hs
  | tail _ last ih => exact change _ _ last ih

end Sys2Proof.Proofs.StepChanges

/-! PROOFS. What the changes leave of the memory, the bank states, the data bus and the memory-wide step; and with it
that every step keeps the memory's canonical form and the laws of the bank table. -/

namespace Sys2Proof.Proofs.BankLaws

open Sys2Proof Sys2Proof.Machine Sys2Proof.Safety Sys2Proof.Laws
open Sys2Proof.Proofs.Coherence Sys2Proof.Proofs.Changes Sys2Proof.Proofs.BankChanges Sys2Proof.Proofs.StepChanges
open Sys2Proof.Proofs.PinReset Sys2Proof.Proofs.Grants Sys2Proof.Proofs.Control

variable {s t : State} {b : BankId}

/-! ### The acceptance of a post and the grant of a request, in the vital part -/

theorem vital_patchFilled (s : State) (line : Nat) (mask : ByteMask) (bytes : Line) :
    vital (s.patchFilled line mask bytes) = { vital s with slots := (s.patchFilled line mask bytes).pool.slots } := by
  unfold State.patchFilled
  generalize s.streams.toList.flatMap Stream.entries = es
  induction es generalizing s with
  | nil => rfl
  | cons e es ih =>
    rw [List.foldl_cons, ih]
    unfold State.patchEntry
    split <;> rfl

theorem vital_mergePost (s : State) (e : PostEntry) (line : Nat) (mask : ByteMask) (k : SlotId) :
    vital (s.mergePost e line mask k) = { vital s with
      slots := (s.mergePost e line mask k).pool.slots, entries := (s.post.merge line mask).entries } := by
  rw [State.mergePost, vital_patchFilled]
  rfl

theorem vital_appendPost (s : State) (line : Nat) (mask : ByteMask) (k : SlotId) :
    vital (s.appendPost line mask k) = { vital s with
      slots := (s.appendPost line mask k).pool.slots, entries := (s.post.append line mask k).entries } := by
  rw [State.appendPost, vital_patchFilled]
  rfl

/-- An acceptance changes the slots and the posts alone. -/
theorem vital_acceptPost {line : Nat} {mask : ByteMask} {k : SlotId} (taken : s.acceptPost line mask k = some t) :
    vital t = { vital s with slots := t.pool.slots, entries := t.post.entries } := by
  rcases acceptPost_cases taken with ⟨e, -, rfl⟩ | ⟨-, -, rfl⟩
  · rw [vital_mergePost, mergePost_post]
  · rw [vital_appendPost, appendPost_post]

/-- The bank table of a vital part, replaced. -/
def withBanks (v : Vital) (banks : BankId → BankState × Option OwnerRecord) : Vital := { v with banks := banks }

/-- A bank takes an owner, in the vital part. -/
def ownedIn (b : BankId) (o : OwnerRecord) (v : Vital) : Vital :=
  withBanks v fun c => if c = b then ((v.banks c).1, some o) else v.banks c

theorem vital_addDue (s : State) (b : BankId) (x : BankStep) : vital (s.addDue b x) = vital s := by
  rcases addDue_cases s b x with ⟨-, h⟩ | ⟨-, h⟩ <;> rw [h]
  rfl

theorem vital_setOut (s : State) (b : BankId) (row : Nat) : vital (s.setOut b row) = vital s := by
  unfold State.setOut
  split
  · split
    · rfl
    · split
      · exact vital_joinBurst s b
      · exact vital_addDue s b .closeRow
  · exact vital_addDue s b .openRow
  all_goals rfl

theorem vital_setBank (s : State) (b : BankId) (r : Bank) : vital (s.setBank b r) =
    withBanks (vital s) fun c => if c = b then (r.state, r.owner) else (vital s).banks c := by
  refine congrArg (withBanks (vital s)) (funext fun c => ?_)
  change ((s.setBank b r).seq.banks[c].state, (s.setBank b r).seq.banks[c].owner) = _
  rw [getElem_setBank]
  split <;> rfl

theorem vital_recordOwner (s : State) (p : Fin 10) (q : Request) :
    vital (s.recordOwner p q) = ownedIn (bankOf q.line) (q.owner p) (vital s) := by
  have recorded : vital (s.recordOwner p q) =
      vital (s.setBank (bankOf q.line) { s.seq.banks[bankOf q.line] with owner := some (q.owner p) }) := rfl
  rw [recorded, vital_setBank, ownedIn]
  refine congrArg (withBanks (vital s)) (funext fun c => ?_)
  split
  · next same =>
    subst same
    rfl
  · rfl

/-! ### The parts of a vital part, set one at a time -/

def setStreamIn (v : Vital) (n : StreamId) (c : Stream) : Vital := { v with streams := v.streams.set n.val c }

def withSlots (v : Vital) (slots : Vector Slot 48) : Vital := { v with slots := slots }

def ownIn (v : Vital) (k : SlotId) (o : Owner) : Vital := withSlots v (v.slots.set k.val { v.slots[k] with owner := o })

def withEntries (v : Vital) (entries : List PostEntry) : Vital := { v with entries := entries }

def withEngineIn (v : Vital) (e : Engine) : Vital := { v with engine := e }

def withClaims (v : Vital) (claims : Vector (Option Claim) 9) : Vital := { v with claims := claims }

theorem vital_setStream (s : State) (n : StreamId) (c : Stream) : vital (s.setStream n c) = setStreamIn (vital s) n c := rfl

theorem vital_own (s : State) (k : SlotId) (o : Owner) : vital (s.own k o) = ownIn (vital s) k o := rfl

theorem vital_release (s : State) (k : SlotId) : vital (s.release k) = ownIn (vital s) k .free := rfl

theorem vital_fillSlot (s : State) (k : SlotId) (l : Line) :
    vital (s.fillSlot k l) = withSlots (vital s) (s.fillSlot k l).pool.slots := rfl

theorem vital_withPost (s : State) (p : PostQueue) : vital (s.withPost p) = withEntries (vital s) p.entries := rfl

theorem vital_withEngine (s : State) (e : Engine) : vital (s.withEngine e) = withEngineIn (vital s) e := rfl

theorem vital_unclaimed (s : State) (c : Fin 9) :
    vital (unclaimed s c) = withClaims (vital s) (s.pool.claims.set c.val none) := rfl

/-- A source buffer whose request is granted becomes IN_FLIGHT (R145). -/
def flown (k : SlotId) (x : SourceBuffer) : SourceBuffer :=
  if x.slot = k ∧ x.state = .requested then { x with state := .inFlight } else x

/-- The three requesters of a grant (R108), and what the grant is to each (R41, R79, R145). -/
inductive Granted (s : State) (p : Fin 10) (q : Request) : Vital → Prop
  | entry {n : StreamId} {r : ReadStream} {e : ReadEntry} (position : p.val = n.val) (read : s.streams[n] = .read r)
      (mem : e ∈ r.queue) (requested : e.state = .requested) (op : q.op = .fetch) (line : q.line = e.line)
      (slot : q.slot = e.slot) :
      Granted s p q (setStreamIn (ownedIn (bankOf q.line) (q.owner p) (vital s)) n
        (.read (r.passEntry q.slot .requested .inFlight)))
  | post {e : PostEntry} (position : p = 8) (oldest : s.post.oldestWaiting = some e) (op : q.op = .store)
      (line : q.line = e.line) (slot : q.slot = e.slot) (mask : q.mask = e.mask) :
      Granted s p q (withEntries (ownedIn (bankOf q.line) (q.owner p) (vital s)) s.post.retireOldest.entries)
  | buffer {k : Fin 2} {x : SourceBuffer} (position : p = 9) (buffer : s.engine.buffers[k] = some x)
      (requested : x.state = .requested) (op : q.op = .fetch) (line : x.line = some q.line) (slot : q.slot = x.slot) :
      Granted s p q (withEngineIn (ownedIn (bankOf q.line) (q.owner p) (vital s))
        { s.engine with buffers := s.engine.buffers.map (Option.map (flown q.slot)) })

theorem request_eq_some {c : Stream} {q : Request} (h : c.request = some q) : ∃ (r : ReadStream) (e : ReadEntry),
    c = .read r ∧ e ∈ r.queue ∧ e.state = .requested ∧ q.op = .fetch ∧ q.line = e.line ∧ q.slot = e.slot := by
  cases c with
  | read r =>
    rw [request_read] at h
    obtain ⟨e, found, rfl⟩ := Option.map_eq_some_iff.mp h
    exact ⟨r, e, rfl, List.mem_of_find?_eq_some found, by simpa using List.find?_some found, rfl, rfl, rfl⟩
  | write w => cases h
  | closed => cases h

theorem post_request_eq_some {p : PostQueue} {q : Request} (h : p.request = some q) : ∃ e : PostEntry,
    p.oldestWaiting = some e ∧ q.op = .store ∧ q.line = e.line ∧ q.slot = e.slot ∧ q.mask = e.mask := by
  rw [post_request] at h
  obtain ⟨e, found, rfl⟩ := Option.map_eq_some_iff.mp h
  exact ⟨e, found, rfl, rfl, rfl, rfl⟩

theorem buffer_request_eq_some {x : SourceBuffer} {q : Request} (h : x.request = some q) :
    x.state = .requested ∧ q.op = .fetch ∧ x.line = some q.line ∧ q.slot = x.slot := by
  unfold SourceBuffer.request at h
  split at h
  · next line named =>
    obtain ⟨state, asked⟩ := Option.ite_none_right_eq_some.mp h
    cases asked
    exact ⟨state, rfl, named, rfl⟩
  · cases h

theorem engine_request_eq_some {e : Engine} {q : Request} (h : e.request = some q) : ∃ (k : Fin 2) (x : SourceBuffer),
    e.buffers[k] = some x ∧ x.state = .requested ∧ q.op = .fetch ∧ x.line = some q.line ∧ q.slot = x.slot := by
  rw [engine_request] at h
  rcases Option.or_eq_some_iff.mp h with first | ⟨-, second⟩
  · obtain ⟨x, buffer, asks⟩ := Option.bind_eq_some_iff.mp first
    exact ⟨0, x, buffer, buffer_request_eq_some asks⟩
  · obtain ⟨x, buffer, asks⟩ := Option.bind_eq_some_iff.mp second
    exact ⟨1, x, buffer, buffer_request_eq_some asks⟩

theorem tellRequester_stream {p : Fin 10} {q : Request} (below : p.val < 8) :
    s.tellRequester p q = s.entryInFlight ⟨p.val, below⟩ q.slot := dif_pos below

theorem tellRequester_post (s : State) (q : Request) : s.tellRequester 8 q = s.withPost s.post.retireOldest := rfl

theorem tellRequester_engine (s : State) (q : Request) : s.tellRequester 9 q =
    s.withEngine { s.engine with buffers := s.engine.buffers.map (Option.map (flown q.slot)) } := by
  refine congrArg (fun f => s.withEngine { s.engine with buffers := s.engine.buffers.map f }) (funext fun b => ?_)
  cases b with
  | none => rfl
  | some x =>
    change (if _ then _ else _) = some (if _ then _ else _)
    split <;> rfl

/-- Everything that a grant can do. -/
theorem vital_grantRequest {p : Fin 10} {q : Request} (presented : s.requestAt p = some q) :
    Granted s p q (vital (s.grantRequest p q)) := by
  have out : vital ((s.recordOwner p q).setOut (bankOf q.line) (rowOf q.line)) =
      ownedIn (bankOf q.line) (q.owner p) (vital s) := (vital_setOut _ _ _).trans (vital_recordOwner s p q)
  unfold State.grantRequest
  generalize (s.recordOwner p q).setOut (bankOf q.line) (rowOf q.line) = u at out
  have streams : u.streams = s.streams := congrArg Vital.streams out
  have entries : u.post.entries = s.post.entries := congrArg Vital.entries out
  have engine : u.engine = s.engine := congrArg Vital.engine out
  by_cases below : p.val < 8
  · have position : p.val = (⟨p.val, below⟩ : StreamId).val := rfl
    obtain ⟨r, e, read, mem, requested, op, line, slot⟩ := request_eq_some ((requestAt_stream position).symm.trans presented)
    have told : u.entryInFlight ⟨p.val, below⟩ q.slot =
        u.setStream ⟨p.val, below⟩ (.read (r.passEntry q.slot .requested .inFlight)) := by
      unfold State.entryInFlight
      rw [streams, read]
    rw [tellRequester_stream below, told, vital_setStream, out]
    exact .entry position read mem requested op line slot
  · by_cases at8 : p = 8
    · subst at8
      obtain ⟨e, oldest, op, line, slot, mask⟩ := post_request_eq_some ((requestAt_post s).symm.trans presented)
      have retired : u.post.retireOldest.entries = s.post.retireOldest.entries := by
        rw [PostQueue.retireOldest, entries]
        rfl
      rw [tellRequester_post, vital_withPost, out, retired]
      exact .post rfl oldest op line slot mask
    · obtain rfl : p = 9 := by omega
      obtain ⟨k, x, buffer, requested, op, line, slot⟩ := engine_request_eq_some ((requestAt_engine s).symm.trans presented)
      rw [tellRequester_engine, vital_withEngine, out, engine]
      exact .buffer rfl buffer requested op line slot

/-! ### The frame: what most changes leave -/

/-- The memory, the bank states with the operation of each bank's owner, the data bus, the memory-wide step, the debt and the
command state. -/
structure Frame where
  memory : Memory
  banks : BankId → BankState × Option MemOp
  dataBus : Option BankId
  wide : WideStep
  memoryState : MemoryState
  debt : Nat
  command : CommandState

def frameOf (v : Vital) : Frame :=
  { memory := v.memory, banks := fun b => ((v.banks b).1, (v.banks b).2.map OwnerRecord.op), dataBus := v.dataBus, wide := v.wide
    memoryState := v.memoryState, debt := v.debt, command := v.command }

/-- A bank of the frame, replaced. -/
def Frame.setBank (f : Frame) (b : BankId) (x : BankState × Option MemOp) : Frame :=
  { f with banks := fun c => if c = b then x else f.banks c }

/-- What the changes come to for the frame. -/
inductive FrameChange (s t : State) : Prop
  | calm (h : frameOf (vital t) = frameOf (vital s))
  | aside (h : Aside s t)
  | owned {b : BankId} {op : MemOp} (free : s.seq.banks[b].owner = none) (started : s.seq.memory = .started) (alone : s.seq.wide = .none)
      (h : frameOf (vital t) = (frameOf (vital s)).setBank b (s.seq.banks[b].state, some op))
  | returned {b : BankId} (reading : s.seq.banks[b].state = .reading)
      (h : frameOf (vital t) = { (frameOf (vital s)).setBank b (.opened, none) with dataBus := none })
  | store {b : BankId} {o : OwnerRecord} (recovering : s.seq.banks[b].state = .recovering)
      (h : frameOf (vital t) = { (frameOf (vital s)).setBank b (.opened, none) with memory := (s.store o).memory })
  | enterResetting (h : t = s.enterResetting)
  | fall (h : t = s.fall)
  | rise (h : t = s.rise)

theorem op_markedOwner (k : SlotId) (o : Option OwnerRecord) :
    (markedOwner k o).map OwnerRecord.op = o.map OwnerRecord.op := by
  unfold markedOwner
  cases o with
  | none => rfl
  | some r =>
    simp only [Option.map_some]
    split <;> rfl

theorem frameOf_letGoIn (v : Vital) (e : ReadEntry) : frameOf (letGoIn v e) = frameOf v := by
  unfold letGoIn
  split
  · refine congrArg (fun banks => { frameOf v with banks := banks }) (funext fun c => ?_)
    dsimp only
    split
    · simp [op_markedOwner]
    · rfl
  · rfl

theorem frameOf_ownedIn (v : Vital) (b : BankId) (o : OwnerRecord) :
    frameOf (ownedIn b o v) = (frameOf v).setBank b ((v.banks b).1, some o.op) := by
  refine congrArg (fun banks => { frameOf v with banks := banks }) (funext fun c => ?_)
  change ((ite _ _ _ : BankState × Option OwnerRecord).1, (ite _ _ _ : BankState × Option OwnerRecord).2.map OwnerRecord.op) = _
  split
  · next same =>
    subst same
    rfl
  · rfl

theorem frameOf_releaseBankIn (v : Vital) (b : BankId) :
    frameOf (releaseBankIn v b) = (frameOf v).setBank b (.opened, none) := by
  refine congrArg (fun banks => { frameOf v with banks := banks }) (funext fun c => ?_)
  change ((ite _ _ _ : BankState × Option OwnerRecord).1, (ite _ _ _ : BankState × Option OwnerRecord).2.map OwnerRecord.op) = _
  split <;> rfl

theorem frameOf_released (s : State) (b : BankId) :
    frameOf (vital (released s b)) = { (frameOf (vital s)).setBank b (.opened, none) with dataBus := none } := by
  rw [vital_released, releasedIn, frameOf_releaseBankIn]
  rfl

theorem frameOf_setStream (s : State) (n : StreamId) (c : Stream) :
    frameOf (vital (s.setStream n c)) = frameOf (vital s) := rfl

theorem frameOf_withEngine (s : State) (e : Engine) : frameOf (vital (s.withEngine e)) = frameOf (vital s) := rfl

theorem frameOf_acceptPost {line : Nat} {mask : ByteMask} {k : SlotId} (taken : s.acceptPost line mask k = some t) :
    frameOf (vital t) = frameOf (vital s) := by
  rw [vital_acceptPost taken]
  rfl

theorem frameOf_granted {p : Fin 10} {q : Request} {v : Vital} (h : Granted s p q v) :
    frameOf v = (frameOf (vital s)).setBank (bankOf q.line) (s.seq.banks[bankOf q.line].state, some q.op) := by
  cases h <;> exact frameOf_ownedIn (vital s) _ _

theorem frameChange (h : Change s t) : FrameChange s t := by
  cases h with
  | aside h => exact .aside h
  | tagAll => exact .calm rfl
  | stream => exact .calm rfl
  | @letGo n r e rest =>
    refine .calm ?_
    rw [vital_setStream, vital_releaseEntry]
    exact (rfl : _ = frameOf (letGoIn (vital s) e)).trans (frameOf_letGoIn _ _)
  | append => exact .calm rfl
  | gather => exact .calm rfl
  | dropAssembly => exact .calm rfl
  | fill => exact .calm rfl
  | postAssembly _ _ taken => exact .calm ((frameOf_setStream _ _ _).trans (frameOf_acceptPost taken))
  | postDest _ _ taken => exact .calm ((frameOf_withEngine _ _).trans (frameOf_acceptPost taken))
  | engine => exact .calm rfl
  | dropBuffer => exact .calm rfl
  | dropDest => exact .calm rfl
  | takeSource => exact .calm rfl
  | takeDest => exact .calm rfl
  | claims => exact .calm rfl
  | unclaim => exact .calm rfl
  | grant presented eligible =>
    obtain ⟨free, started, -, -, alone⟩ := (eligible_iff s _).mp eligible
    exact .owned free started alone (frameOf_granted (vital_grantRequest presented))
  | returnDiscarded reading => exact .returned reading (frameOf_released _ _)
  | returnEntry reading => exact .returned reading (frameOf_released _ _)
  | returnBuffer reading => exact .returned reading (frameOf_released _ _)
  | returnLost reading => exact .returned reading (frameOf_released _ _)
  | @store b o recovering =>
    refine .store (o := o) recovering ?_
    rw [vital_releaseBank, frameOf_releaseBankIn]
    rfl
  | enterResetting => exact .enterResetting rfl
  | fall => exact .fall rfl
  | rise => exact .rise rfl

/-! ### Entry to RESETTING, in the vital part -/

/-- The mark that a soft reset sets on an owner record (R122). -/
def markedAtReset (o : Option OwnerRecord) : Option OwnerRecord :=
  o.map fun r => if r.op = .fetch then { r with discard := true } else r

theorem op_markedAtReset (o : Option OwnerRecord) : (markedAtReset o).map OwnerRecord.op = o.map OwnerRecord.op := by
  unfold markedAtReset
  cases o with
  | none => rfl
  | some r =>
    simp only [Option.map_some]
    split <;> rfl

theorem vital_withPool (s : State) (p : Pool) :
    vital (s.withPool p) = { vital s with slots := p.slots, claims := p.claims } := rfl

theorem vital_closeStreams (s : State) :
    vital s.closeStreams = { vital s with streams := Vector.replicate 8 .closed } := rfl

theorem vital_withPort (s : State) (p : Port) : vital (s.withPort p) = { vital s with command := p.state } := rfl

theorem vital_softReset (s : State) : vital (s.mapSeq Sequencer.softReset) =
    withBanks (vital s) fun b => (((vital s).banks b).1, markedAtReset ((vital s).banks b).2) := by
  refine congrArg (withBanks (vital s)) (funext fun b => ?_)
  simp [State.mapSeq, State.withSeq, Sequencer.softReset, vital, Bank.discardAtReset, markedAtReset]

theorem vital_abandonStartUp (s : State) :
    vital s.abandonStartUp = { vital s with memoryState := s.abandonStartUp.seq.memory } := by
  unfold State.abandonStartUp
  split <;> rfl

/-- A start-up sequence that is abandoned was under way (R132). -/
theorem enterResetting_memory (s : State) : s.enterResetting.seq.memory = .unstarted ∧ s.seq.memory = .starting ∨
    s.enterResetting.seq.memory = s.seq.memory := by
  have before : (resettingState s).seq.memory = s.seq.memory := rfl
  rw [enterResetting_eq, ← before]
  by_cases starting : (resettingState s).seq.memory = .starting
  · rw [abandonStartUp_starting starting]
    exact .inl ⟨rfl, starting⟩
  · rw [abandonStartUp_other starting]
    exact .inr rfl

theorem started_of_enterResetting (h : s.enterResetting.seq.memory ≠ .started) : s.seq.memory ≠ .started := by
  rcases enterResetting_memory s with ⟨-, starting⟩ | same
  · rw [starting]
    decide
  · rwa [← same]

/-- What entry to RESETTING leaves (R32, R57, R82, R122, R132, R159). -/
theorem vital_enterResetting (s : State) : vital s.enterResetting =
    { withBanks (vital s) fun b => (((vital s).banks b).1, markedAtReset ((vital s).banks b).2) with
      streams := Vector.replicate 8 .closed, slots := s.resetPool.slots, claims := Vector.replicate 9 none
      entries := s.post.softReset.entries, engine := Engine.reset, memoryState := s.enterResetting.seq.memory
      command := .resetting } := by
  rw [enterResetting_eq, vital_abandonStartUp, resettingState, vital_withPort, vital_softReset, vital_withEngine,
    vital_withPost, vital_closeStreams, vital_withPool]
  rfl

theorem frameOf_enterResetting (s : State) : frameOf (vital s.enterResetting) = { frameOf (vital s) with
    memoryState := s.enterResetting.seq.memory, command := .resetting } := by
  rw [vital_enterResetting]
  refine congrArg (fun banks => { frameOf (vital s) with
    banks := banks, memoryState := s.enterResetting.seq.memory, command := CommandState.resetting }) (funext fun b => ?_)
  simp [withBanks, op_markedAtReset, frameOf]

/-! ### The canonical form of the memory -/

theorem memory_of_frame {f : Frame} (h : frameOf (vital t) = f) : t.memory = f.memory := congrArg Frame.memory h

/-- A change leaves the memory, unless it is a store's completion or the fall of /RESET. -/
theorem memory_change (h : Change s t) : t.memory = s.memory ∨ (∃ o, t.memory = (s.store o).memory) ∨ t = s.fall := by
  cases frameChange h with
  | calm h => exact .inl (memory_of_frame h)
  | aside h => exact .inl h.memory
  | owned _ _ _ h => exact .inl (memory_of_frame h)
  | returned _ h => exact .inl (memory_of_frame h)
  | store _ h => exact .inr (.inl ⟨_, memory_of_frame h⟩)
  | enterResetting h => exact .inl (h ▸ memory_of_frame (frameOf_enterResetting s))
  | fall h => exact .inr (.inr h)
  | rise h => exact .inl (h ▸ rfl)

theorem canonical_change (h : Change s t) (canonical : MemoryCanonical s) : MemoryCanonical t := by
  rcases memory_change h with same | ⟨o, stored⟩ | rfl
  · rwa [MemoryCanonical, same]
  · rw [MemoryCanonical, stored]
    exact writeLine_wf _ _ _ canonical
  · exact fall_canonical canonical

/-- Settles O58: only a store and the cut-off stores of a fall write to the memory, and a written line keeps the
form. -/
theorem everyStepKeepsMemoryCanonical : Obligations.EveryStepKeepsMemoryCanonical := by
  unfold Obligations.EveryStepKeepsMemoryCanonical
  exact fun s t canonical next => step_keeps (fun _ _ => canonical_change) next canonical

/-! ### The laws of the bank table (R102, R105, R109, R120) -/

/-- The laws of the bank table, of the frame. -/
structure FrameLawful (f : Frame) : Prop where
  busyOwned : ∀ b, (f.banks b).1 = .opening ∨ (f.banks b).1 = .reading ∨ (f.banks b).1 = .writing ∨
    (f.banks b).1 = .recovering → (f.banks b).2.isSome = true
  burstHoldsBus : ∀ b, (f.banks b).1 = .reading ∨ (f.banks b).1 = .writing → f.dataBus = some b
  wideAlone : f.wide ≠ .none → ∀ b, (f.banks b).1 = .closed ∧ (f.banks b).2 = none
  notStarted : f.memoryState ≠ .started → ∀ b, (f.banks b).1 = .closed ∧ (f.banks b).2 = none

theorem banksLawful_iff (s : State) : BanksLawful s ↔ FrameLawful (frameOf (vital s)) := by
  have owned (b : BankId) : s.seq.banks[b].owned = ((frameOf (vital s)).banks b).2.isSome := Option.isSome_map.symm
  have unowned (b : BankId) : s.seq.banks[b].owned = false ↔ ((frameOf (vital s)).banks b).2 = none := by
    rw [owned, Option.isSome_eq_false_iff, Option.isNone_iff_eq_none]
  refine ⟨fun ⟨busy, bus, wide, started⟩ => ⟨fun b h => (owned b).symm.trans (busy b h), bus, fun h b => ?_, fun h b => ?_⟩,
    fun ⟨busy, bus, wide, started⟩ => ⟨fun b h => (owned b).trans (busy b h), bus, fun h b => ?_, fun h b => ?_⟩⟩
  · exact ⟨(wide h b).1, (unowned b).mp (wide h b).2⟩
  · exact ⟨(started h b).1, (unowned b).mp (started h b).2⟩
  · exact ⟨(wide h b).1, (unowned b).mpr (wide h b).2⟩
  · exact ⟨(started h b).1, (unowned b).mpr (started h b).2⟩

theorem owned_of_owner {r x : Bank} (same : r.owner = x.owner) : r.owned = x.owned := congrArg Option.isSome same

theorem aside_banksLawful (h : Aside s t) (lawful : BanksLawful s) : BanksLawful t := by
  have owned (b : BankId) : t.seq.banks[b].owned = s.seq.banks[b].owned := owned_of_owner (h.owners b)
  have stays (idle : AllIdle s) : AllIdle t := fun b =>
    ⟨h.closed b (idle b).1 (idle b).2, (owned b).trans (idle b).2⟩
  exact {
    busyOwned := fun b busy => (owned b).trans ((h.busy b busy).elim (lawful.busyOwned b) id)
    burstHoldsBus := h.bus lawful.burstHoldsBus
    wideAlone := fun running => by
      rcases h.wide running with before | ⟨stopped, -⟩ | idle
      · exact stays (lawful.wideAlone before)
      · exact stays (lawful.notStarted stopped)
      · exact stays idle
    notStarted := fun stopped => stays (lawful.notStarted (h.started stopped)) }

theorem setBank_same (f : Frame) (b : BankId) (x : BankState × Option MemOp) : (f.setBank b x).banks b = x := if_pos rfl

theorem setBank_other {c : BankId} (f : Frame) (x : BankState × Option MemOp) (other : c ≠ b) :
    (f.setBank b x).banks c = f.banks c := if_neg other

variable {f : Frame}

theorem FrameLawful.withMemory {m : Memory} (lawful : FrameLawful f) : FrameLawful { f with memory := m } :=
  ⟨lawful.busyOwned, lawful.burstHoldsBus, lawful.wideAlone, lawful.notStarted⟩

theorem frameLawful_owned {op : MemOp} (lawful : FrameLawful f) (started : f.memoryState = .started) (alone : f.wide = .none) :
    FrameLawful (f.setBank b ((f.banks b).1, some op)) where
  busyOwned c := by
    by_cases here : c = b
    · subst here
      simp [setBank_same]
    · rw [setBank_other f _ here]
      exact lawful.busyOwned c
  burstHoldsBus c := by
    by_cases here : c = b
    · subst here
      rw [setBank_same]
      exact lawful.burstHoldsBus c
    · rw [setBank_other f _ here]
      exact lawful.burstHoldsBus c
  wideAlone running := absurd alone running
  notStarted stopped := absurd started stopped

/-- A bank that was busy is released; the data bus is freed, or no burst of the bank holds it. -/
theorem frameLawful_released {bus : Option BankId} (lawful : FrameLawful f)
    (busy : (f.banks b).1 = .opening ∨ (f.banks b).1 = .reading ∨ (f.banks b).1 = .writing ∨ (f.banks b).1 = .recovering)
    (held : ∀ c, c ≠ b → f.dataBus = some c → bus = some c) :
    FrameLawful { f.setBank b (.opened, none) with dataBus := bus } where
  busyOwned c := by
    by_cases here : c = b
    · subst here
      simp [setBank_same]
    · rw [setBank_other f _ here]
      exact lawful.busyOwned c
  burstHoldsBus c := by
    by_cases here : c = b
    · subst here
      simp [setBank_same]
    · rw [setBank_other f _ here]
      exact fun burst => held c here (lawful.burstHoldsBus c burst)
  wideAlone running := by
    rw [(lawful.wideAlone running b).1] at busy
    simp at busy
  notStarted stopped := by
    rw [(lawful.notStarted stopped b).1] at busy
    simp at busy

theorem frameLawful_change (h : Change s t) (lawful : BanksLawful s) : BanksLawful t := by
  have before := (banksLawful_iff s).mp lawful
  cases frameChange h with
  | calm h => exact (banksLawful_iff t).mpr (h ▸ before)
  | aside h => exact aside_banksLawful h lawful
  | owned _ started alone h => exact (banksLawful_iff t).mpr (h ▸ frameLawful_owned before started alone)
  | @returned b reading h =>
    refine (banksLawful_iff t).mpr (h ▸ frameLawful_released before (.inr (.inl reading)) fun c other bus => ?_)
    have here : (frameOf (vital s)).dataBus = some b := before.burstHoldsBus b (.inl reading)
    rw [here] at bus
    exact absurd (Option.some.inj bus).symm other
  | store recovering h =>
    have released := frameLawful_released before (.inr (.inr (.inr recovering))) fun c _ bus => bus
    exact (banksLawful_iff t).mpr (h ▸ released.withMemory)
  | enterResetting h =>
    subst h
    refine (banksLawful_iff _).mpr ?_
    rw [frameOf_enterResetting]
    exact ⟨before.busyOwned, before.burstHoldsBus, before.wideAlone,
      fun stopped => before.notStarted (started_of_enterResetting stopped)⟩
  | fall h =>
    subst h
    obtain ⟨m, d, frame⟩ := fall_frame s
    rw [frame]
    exact ⟨lawful.busyOwned, lawful.burstHoldsBus, lawful.wideAlone, lawful.notStarted⟩
  | rise h => exact h ▸ (rise_vacant s).banksLawful

/-- Settles O60, change by change. -/
theorem everyStepKeepsBankLaws : Obligations.EveryStepKeepsBankLaws := by
  unfold Obligations.EveryStepKeepsBankLaws
  exact fun s t lawful next => step_keeps (fun _ _ => frameLawful_change) next lawful

end Sys2Proof.Proofs.BankLaws

/-! PROOFS. What the changes do to each stream, to the Post Queue and to the Move Engine, one list each; and with it that
every step keeps the capacities, the one WAITING entry, the read-ahead bounds, the debt's cap and the line addresses. -/

namespace Sys2Proof.Proofs.QueueLaws

open Sys2Proof Sys2Proof.Machine Sys2Proof.Safety Sys2Proof.Laws
open Sys2Proof.Proofs.LinePool Sys2Proof.Proofs.Coherence Sys2Proof.Proofs.Changes Sys2Proof.Proofs.StreamChanges
open Sys2Proof.Proofs.BankChanges Sys2Proof.Proofs.StepChanges Sys2Proof.Proofs.BankLaws Sys2Proof.Proofs.PinReset
open Sys2Proof.Proofs.Grants Sys2Proof.Proofs.ActionChanges

variable {s t : State} {n : StreamId} {b : BankId}

/-! ### Laws of the lines, part by part -/

/-- The line addresses of the posts are line addresses (R2). -/
def PostsAligned (es : List PostEntry) : Prop := ∀ e ∈ es, e.line % 16 = 0

/-- The destination line is a line (R2). -/
def DestAligned (e : Engine) : Prop := ∀ d, e.dest = some d → d.line % 16 = 0

theorem linesAligned_iff (s : State) : LinesAligned s ↔
    (∀ n : StreamId, StreamAligned s.streams[n]) ∧ PostsAligned s.post.entries ∧ DestAligned s.engine := by
  constructor
  · intro ⟨reads, assemblies, posts, destination⟩
    refine ⟨fun n => ⟨fun r read => (reads n r read).1, fun e he => ?_, fun w a write => assemblies n w a write⟩, posts,
      destination⟩
    obtain ⟨r, read, mem⟩ := mem_entries.mp he
    exact (reads n r read).2 e mem
  · intro ⟨streams, posts, destination⟩
    exact ⟨fun n r read => ⟨(streams n).cursor r read, fun e he => (streams n).entries e (mem_entries.mpr ⟨r, read, he⟩)⟩,
      fun n w a write => (streams n).assembly w a write, posts, destination⟩

/-! ### Streams -/

/-- What the changes do to one stream's context. -/
inductive StreamChange : Stream → Stream → Prop
  | turns {c d : Stream} (h : StreamTurns c d) : StreamChange c d
  | letGo {r : ReadStream} {e : ReadEntry} {rest : List ReadEntry} (queue : r.queue = e :: rest) :
      StreamChange (.read r) (.read { r with queue := rest })
  | append {r : ReadStream} (need : r.fetchNeed = true) (k : SlotId) : StreamChange (.read r) (.read (r.append k))
  | gather (w : WriteStream) (k : SlotId) : StreamChange (.write w) (.write (w.withAssembly k))
  | empty {c d : Stream} (h : StreamEmpty d) : StreamChange c d
  | pass {r : ReadStream} {k : SlotId} {was next : EntryState} (other : next ≠ .requested) :
      StreamChange (.read r) (.read (r.passEntry k was next))

theorem turns_refl (c : Stream) : StreamTurns c c := ⟨rfl, .inl rfl, id, id, id⟩

theorem StreamChange.same {c d : Stream} (h : d = c) : StreamChange c d := by
  subst h
  exact .turns (turns_refl d)

/-- A change of one stream's context, and no other's. -/
theorem streamChange_set {c d : Stream} (before : s.streams[n] = c) (h : StreamChange c d) (m : StreamId) :
    StreamChange s.streams[m] (s.streams.set n.val d)[m] := by
  by_cases here : m = n
  · subst here
    rw [before]
    simpa using h
  · exact .same (setStream_other s d here)

theorem streams_of_vital {v : Vital} (h : vital t = v) : t.streams = v.streams := congrArg Vital.streams h

theorem letGoIn_frame (v : Vital) (e : ReadEntry) :
    letGoIn v e = { v with slots := (letGoIn v e).slots, banks := (letGoIn v e).banks } := by
  unfold letGoIn
  split <;> rfl

theorem releaseEntry_frame (s : State) (e : ReadEntry) : vital (s.releaseEntry e) =
    { vital s with slots := (letGoIn (vital s) e).slots, banks := (letGoIn (vital s) e).banks } :=
  (vital_releaseEntry s e).trans (letGoIn_frame _ _)

theorem streams_releaseEntry (s : State) (e : ReadEntry) : (s.releaseEntry e).streams = s.streams :=
  streams_of_vital (releaseEntry_frame s e)

theorem streams_released (s : State) (b : BankId) : (released s b).streams = s.streams := (released_keeps s b).2

theorem streams_acceptPost {line : Nat} {mask : ByteMask} {k : SlotId} (taken : s.acceptPost line mask k = some t) :
    t.streams = s.streams := streams_of_vital (vital_acceptPost taken)

theorem streamChange (h : Change s t) (m : StreamId) : StreamChange s.streams[m] t.streams[m] := by
  cases h with
  | aside h => exact .same (by rw [h.streams])
  | tagAll => exact .same rfl
  | stream _ turns => exact streamChange_set rfl (.turns turns) m
  | letGo read queue =>
    change StreamChange _ ((State.releaseEntry _ _).streams.set _ _)[m]
    rw [streams_releaseEntry]
    exact streamChange_set read (.letGo queue) m
  | append read need => exact streamChange_set read (.append need _) m
  | gather write => exact streamChange_set write (.gather _ _) m
  | dropAssembly _ _ empty => exact streamChange_set rfl (.empty empty) m
  | fill => exact .same rfl
  | @postAssembly t n w a mask c _ _ taken empty =>
    change StreamChange _ (t.streams.set _ _)[m]
    rw [streams_acceptPost taken]
    exact streamChange_set rfl (.empty empty) m
  | @postDest t d line mask e _ _ taken => exact .same (by rw [← streams_acceptPost taken]; rfl)
  | engine => exact .same rfl
  | dropBuffer => exact .same rfl
  | dropDest => exact .same rfl
  | takeSource => exact .same rfl
  | takeDest => exact .same rfl
  | claims => exact .same rfl
  | unclaim => exact .same rfl
  | @grant p q presented =>
    have told := vital_grantRequest presented
    generalize form : vital (s.grantRequest p q) = v at told
    cases told with
    | entry _ read =>
      rw [streams_of_vital form]
      exact streamChange_set read (.pass (by decide)) m
    | post => exact .same (by rw [streams_of_vital form]; rfl)
    | buffer => exact .same (by rw [streams_of_vital form]; rfl)
  | returnDiscarded => exact .same (by rw [streams_released]; rfl)
  | returnEntry _ _ _ _ _ read =>
    rw [streams_released]
    exact streamChange_set read (.pass (by decide)) m
  | returnBuffer => exact .same (by rw [streams_released]; rfl)
  | returnLost => exact .same (by rw [streams_released])
  | @store b o =>
    refine .same ?_
    rw [streams_of_vital (vital_releaseBank _ b)]
    rfl
  | enterResetting =>
    rw [streams_of_vital (vital_enterResetting s)]
    exact .empty (by simpa using empty_closed)
  | fall =>
    obtain ⟨m, d, frame⟩ := fall_frame s
    exact .same (by rw [frame])
  | rise =>
    rw [(rise_vacant s).closed m]
    exact .empty empty_closed

/-! ### The Post Queue -/

/-- What the changes do to the entries of the Post Queue. -/
inductive PostsChange (s : State) : List PostEntry → Prop
  | same : PostsChange s s.post.entries
  | tagAll : PostsChange s s.post.tagAll.entries
  | merge (line : Nat) (mask : ByteMask) : PostsChange s (s.post.merge line mask).entries
  | append {line : Nat} (mask : ByteMask) (k : SlotId) (none : s.post.waitingFor line = none)
      (room : s.post.full = false) (aligned : LinesAligned s → line % 16 = 0) :
      PostsChange s (s.post.append line mask k).entries
  | retire : PostsChange s s.post.retireOldest.entries
  | remove (k : SlotId) : PostsChange s (s.post.removeStored k).entries
  | reset : PostsChange s s.post.softReset.entries
  | empty : PostsChange s []

theorem PostsChange.of_eq {es : List PostEntry} (h : es = s.post.entries) : PostsChange s es := h ▸ .same

theorem entries_of_vital {v : Vital} (h : vital t = v) : t.post.entries = v.entries := congrArg Vital.entries h

theorem postsChange_acceptPost {line : Nat} {mask : ByteMask} {k : SlotId} (taken : s.acceptPost line mask k = some t)
    (aligned : LinesAligned s → line % 16 = 0) : PostsChange s t.post.entries := by
  rcases acceptPost_cases taken with ⟨e, -, rfl⟩ | ⟨none, room, rfl⟩
  · rw [mergePost_post]
    exact .merge line mask
  · rw [appendPost_post]
    exact .append mask k none room aligned

theorem postsChange (h : Change s t) : PostsChange s t.post.entries := by
  cases h with
  | aside h => exact .of_eq h.entries
  | tagAll => exact .tagAll
  | stream => exact .same
  | letGo => exact .of_eq ((entries_of_vital (vital_setStream _ _ _)).trans (entries_of_vital (releaseEntry_frame _ _)))
  | append => exact .same
  | gather => exact .same
  | dropAssembly => exact .same
  | fill => exact .same
  | @postAssembly t n w a mask c write assembly taken =>
    have posts := postsChange_acceptPost taken fun lines => lines.assemblies n w a write assembly
    exact posts
  | @postDest t d line mask e dest aligned taken =>
    have posts := postsChange_acceptPost taken fun lines => aligned (lines.destination d dest)
    exact posts
  | engine => exact .same
  | dropBuffer => exact .same
  | dropDest => exact .same
  | takeSource => exact .same
  | takeDest => exact .same
  | claims => exact .same
  | unclaim => exact .same
  | @grant p q presented =>
    have told := vital_grantRequest presented
    generalize form : vital (s.grantRequest p q) = v at told
    cases told with
    | entry => exact .of_eq (entries_of_vital form)
    | post => exact entries_of_vital form ▸ .retire
    | buffer => exact .of_eq (entries_of_vital form)
  | returnDiscarded => exact .of_eq (entries_of_vital (vital_released _ _))
  | returnEntry => exact .of_eq (entries_of_vital (vital_released _ _))
  | returnBuffer => exact .of_eq (entries_of_vital (vital_released _ _))
  | returnLost => exact .of_eq (entries_of_vital (vital_released _ _))
  | @store b o => exact entries_of_vital (vital_releaseBank _ b) ▸ .remove o.slot
  | enterResetting => exact entries_of_vital (vital_enterResetting s) ▸ .reset
  | fall =>
    obtain ⟨m, d, frame⟩ := fall_frame s
    exact .of_eq (by rw [frame])
  | rise => exact (rise_vacant s).noPost ▸ .empty

/-! ### The Move Engine -/

/-- What the changes do to the Move Engine's queues and its destination line. -/
inductive EngineChange (e : Engine) : Engine → Prop
  | turns {f : Engine} (h : EngineTurns e f) : EngineChange e f
  | posted {f : Engine} (h : EngineTurns { e with dest := none } f) : EngineChange e f
  | kept {f : Engine} (jobs : f.jobs = e.jobs) (completions : f.completions = e.completions)
      (dest : ∀ d, f.dest = some d → e.dest = some d ∨ d.line % 16 = 0) : EngineChange e f
  | reset : EngineChange e Engine.reset

theorem EngineChange.of_eq {e f : Engine} (h : f = e) : EngineChange e f :=
  h ▸ .kept rfl rfl fun _ dest => .inl dest

theorem engine_of_vital {v : Vital} (h : vital t = v) : t.engine = v.engine := congrArg Vital.engine h

theorem engine_acceptPost {line : Nat} {mask : ByteMask} {k : SlotId} (taken : s.acceptPost line mask k = some t) :
    t.engine = s.engine := engine_of_vital (vital_acceptPost taken)

theorem engineChange (h : Change s t) : EngineChange s.engine t.engine := by
  cases h with
  | aside h => exact .of_eq h.engine
  | tagAll => exact .of_eq rfl
  | stream => exact .of_eq rfl
  | letGo => exact .of_eq ((engine_of_vital (vital_setStream _ _ _)).trans (engine_of_vital (releaseEntry_frame _ _)))
  | append => exact .of_eq rfl
  | gather => exact .of_eq rfl
  | dropAssembly => exact .of_eq rfl
  | fill => exact .of_eq rfl
  | @postAssembly t n w a mask c _ _ taken =>
    have same : t.engine = s.engine := engine_acceptPost taken
    exact .of_eq same
  | postDest _ _ _ turns => exact .posted turns
  | engine _ turns => exact .turns turns
  | dropBuffer => exact .kept rfl rfl fun _ dest => .inl dest
  | dropDest => exact .kept rfl rfl nofun
  | takeSource => exact .kept rfl rfl fun _ dest => .inl dest
  | takeDest _ _ _ aligned => exact .kept rfl rfl fun _ dest => .inr (Option.some.inj dest ▸ aligned)
  | claims => exact .of_eq rfl
  | unclaim => exact .of_eq rfl
  | @grant p q presented =>
    have told := vital_grantRequest presented
    generalize form : vital (s.grantRequest p q) = v at told
    cases told with
    | entry => exact .of_eq (engine_of_vital form)
    | post => exact .of_eq (engine_of_vital form)
    | buffer =>
      rw [engine_of_vital form]
      exact .kept rfl rfl fun _ dest => .inl dest
  | returnDiscarded => exact .of_eq (engine_of_vital (vital_released _ _))
  | returnEntry => exact .of_eq (engine_of_vital (vital_released _ _))
  | returnBuffer =>
    rw [engine_of_vital (vital_released _ _)]
    exact .kept rfl rfl fun _ dest => .inl dest
  | returnLost => exact .of_eq (engine_of_vital (vital_released _ _))
  | store => exact .of_eq (engine_of_vital (vital_releaseBank _ _))
  | enterResetting => exact engine_of_vital (vital_enterResetting s) ▸ .reset
  | fall =>
    obtain ⟨m, d, frame⟩ := fall_frame s
    exact .of_eq (by rw [frame])
  | rise => exact (rise_vacant s).engine ▸ .reset

/-! ### What a stream's change keeps -/

theorem lawful_streamChange {c d : Stream} (h : StreamChange c d) (lawful : StreamLawful c) : StreamLawful d := by
  cases h with
  | turns h => exact h.lawful lawful
  | @letGo r e rest queue =>
    obtain ⟨depth, one⟩ := lawful
    have shorter : rest.Sublist r.queue := queue ▸ List.sublist_cons_self e rest
    exact ⟨shorter.length_le.trans depth, (shorter.filter _).length_le.trans one⟩
  | @append r need k =>
    obtain ⟨-, room, noneRequested, -⟩ := fetchNeed_iff.mp need
    have none : r.queue.filter (fun e => e.state = .requested) = [] :=
      List.filter_eq_nil_iff.mpr fun e he => by simpa using noneRequested e he
    refine ⟨by simpa [ReadStream.append] using room, ?_⟩
    simp [ReadStream.append, none]
  | gather => trivial
  | empty h => exact h.lawful
  | @pass r k was next other =>
    obtain ⟨depth, one⟩ := lawful
    refine ⟨by simpa [ReadStream.passEntry] using depth, ?_⟩
    refine Nat.le_trans ?_ one
    rw [ReadStream.passEntry, ← List.countP_eq_length_filter, ← List.countP_eq_length_filter, List.countP_map]
    refine List.countP_mono_left fun e _ requested => ?_
    by_cases passes : e.slot = k ∧ e.state = was
    · simp [passes, other] at requested
    · simpa [passes] using requested

theorem nextFetch_aligned {r : ReadStream} (aligned : r.fetchCursor % 16 = 0) : r.nextFetch % 16 = 0 := by
  rw [nextFetch_eq]
  split
  · exact lineOf_mod _
  · omega

theorem aligned_streamChange {c d : Stream} (h : StreamChange c d) (aligned : StreamAligned c) : StreamAligned d := by
  cases h with
  | turns h => exact h.aligned aligned
  | @letGo r e rest queue =>
    refine ⟨fun q hq => ?_, fun x hx => ?_, nofun⟩
    · cases hq
      exact aligned.cursor r rfl
    · refine aligned.entries x ?_
      rw [Stream.entries, queue]
      exact List.mem_cons_of_mem e hx
  | @append r need k =>
    refine ⟨fun q hq => ?_, fun x hx => ?_, nofun⟩
    · cases hq
      exact nextFetch_aligned (aligned.cursor r rfl)
    · rcases List.mem_append.mp hx with old | new
      · exact aligned.entries x old
      · rw [List.mem_singleton.mp new]
        exact aligned.cursor r rfl
  | gather w k =>
    refine ⟨nofun, nofun, fun v a hv ha => ?_⟩
    cases hv
    cases ha
    exact lineOf_mod _
  | empty h => exact (turns_of_empty (c := .closed) rfl rfl h).aligned ⟨nofun, nofun, nofun⟩
  | @pass r k was next other =>
    refine ⟨fun q hq => ?_, fun x hx => ?_, nofun⟩
    · cases hq
      exact aligned.cursor r rfl
    · obtain ⟨e, mem, rfl⟩ := List.mem_map.mp hx
      have line := aligned.entries e mem
      split <;> exact line

theorem waitsEmpty_streamChange {c d : Stream} (h : StreamChange c d) (empty : WaitsEmpty c) : WaitsEmpty d := by
  cases h with
  | turns h => exact h.empty empty
  | letGo => exact nofun
  | append => exact nofun
  | gather w k =>
    intro v hv blocked
    cases hv
    cases blocked
  | empty h => exact (turns_of_empty (c := .closed) rfl rfl h).empty nofun
  | pass => exact nofun

/-! ### What a change of the posts keeps -/

theorem updateFirst_length {α : Type} (p : α → Bool) (f : α → α) (l : List α) : (updateFirst p f l).length = l.length := by
  induction l with
  | nil => rfl
  | cons x xs ih =>
    unfold updateFirst
    split
    · rfl
    · rw [List.length_cons, ih, List.length_cons]

theorem updateFirst_countP_le {α : Type} {p q : α → Bool} {f : α → α} (less : ∀ x, q (f x) = true → q x = true) (l : List α) :
    (updateFirst p f l).countP q ≤ l.countP q := by
  induction l with
  | nil => exact Nat.le_refl _
  | cons x xs ih =>
    unfold updateFirst
    split
    · rw [List.countP_cons, List.countP_cons]
      have := less x
      split_ifs <;> simp_all
    · rw [List.countP_cons, List.countP_cons]
      omega

theorem updateFirst_forall {α : Type} {p : α → Bool} {P : α → Prop} {f : α → α} (keeps : ∀ x, P x → P (f x)) {l : List α}
    (all : ∀ x ∈ l, P x) : ∀ x ∈ updateFirst p f l, P x := by
  induction l with
  | nil => exact all
  | cons y ys ih =>
    obtain ⟨head, tail⟩ := List.forall_mem_cons.mp all
    unfold updateFirst
    split
    · exact List.forall_mem_cons.mpr ⟨keeps y head, tail⟩
    · exact List.forall_mem_cons.mpr ⟨head, ih tail⟩

/-- The law of the WAITING entries, of a list (R75). -/
def OneWaiting (es : List PostEntry) : Prop := ∀ line, es.countP (fun e => e.waitsFor line) ≤ 1

theorem oneWaitingPerLine_iff (s : State) : OneWaitingPerLine s ↔ OneWaiting s.post.entries := by
  simp only [OneWaitingPerLine, OneWaiting, List.countP_eq_length_filter]

theorem room_postsChange {es : List PostEntry} (h : PostsChange s es) (room : s.post.entries.length ≤ 16) : es.length ≤ 16 := by
  cases h with
  | same => exact room
  | tagAll => simpa [PostQueue.tagAll] using room
  | merge => simpa [PostQueue.merge] using room
  | append _ _ _ free =>
    have free : ¬ 16 ≤ s.post.entries.length := of_decide_eq_false free
    simpa [PostQueue.append] using Nat.lt_of_not_le free
  | retire => simpa [PostQueue.retireOldest, updateFirst_length] using room
  | remove => exact (List.length_filter_le _ _).trans room
  | reset =>
    rw [PostQueue.softReset, List.length_map]
    exact (List.length_filter_le _ _).trans room
  | empty => exact Nat.zero_le _

theorem waiting_postsChange {es : List PostEntry} (h : PostsChange s es) (one : OneWaiting s.post.entries) : OneWaiting es := by
  intro line
  cases h with
  | same => exact one line
  | tagAll =>
    rw [PostQueue.tagAll, List.countP_map]
    exact one line
  | merge l mask =>
    rw [PostQueue.merge, List.countP_map]
    refine Nat.le_trans (List.countP_mono_left fun e _ waits => ?_) (one line)
    simp only [Function.comp_apply] at waits
    split at waits <;> exact waits
  | @append l mask k none =>
    rw [PostQueue.append, List.countP_append, List.countP_singleton]
    split
    · next waits =>
      obtain rfl : l = line := by simpa [PostEntry.waitsFor] using waits
      have absent : s.post.entries.countP (fun e => e.waitsFor l) = 0 :=
        List.countP_eq_zero.mpr (List.find?_eq_none.mp none)
      omega
    · exact one line
  | retire => exact Nat.le_trans (updateFirst_countP_le (by simp [PostEntry.waitsFor]) _) (one line)
  | remove => exact Nat.le_trans ((List.filter_sublist).countP_le) (one line)
  | reset =>
    rw [PostQueue.softReset, List.countP_map]
    refine Nat.le_trans ?_ (one line)
    exact (List.filter_sublist).countP_le
  | empty => exact Nat.zero_le _

theorem aligned_postsChange {es : List PostEntry} (h : PostsChange s es) (lines : LinesAligned s) : PostsAligned es := by
  have aligned : PostsAligned s.post.entries := lines.posts
  cases h with
  | same => exact aligned
  | tagAll =>
    intro e he
    obtain ⟨x, mem, rfl⟩ := List.mem_map.mp he
    exact aligned x mem
  | merge =>
    intro e he
    obtain ⟨x, mem, rfl⟩ := List.mem_map.mp he
    have := aligned x mem
    split <;> exact this
  | append mask k none room fresh =>
    intro e he
    rcases List.mem_append.mp he with old | new
    · exact aligned e old
    · rw [List.mem_singleton.mp new]
      exact fresh lines
  | retire =>
    exact updateFirst_forall (P := fun e : PostEntry => e.line % 16 = 0)
      (f := fun e => { e with state := .retiring }) (fun _ line => line) aligned
  | remove => exact fun e he => aligned e (List.mem_of_mem_filter he)
  | reset =>
    intro e he
    obtain ⟨x, mem, rfl⟩ := List.mem_map.mp he
    exact aligned x (List.mem_of_mem_filter mem)
  | empty => exact nofun

/-! ### What a change of the Move Engine keeps -/

theorem queues_engineChange {e f : Engine} (h : EngineChange e f) (jobs : e.jobs.length ≤ 4)
    (completions : e.completions.length ≤ 4) : f.jobs.length ≤ 4 ∧ f.completions.length ≤ 4 := by
  cases h with
  | turns h => exact ⟨h.jobs jobs, h.completions completions⟩
  | posted h => exact ⟨h.jobs jobs, h.completions completions⟩
  | kept sameJobs sameCompletions => exact ⟨sameJobs ▸ jobs, sameCompletions ▸ completions⟩
  | reset => decide

theorem aligned_engineChange {e f : Engine} (h : EngineChange e f) (aligned : DestAligned e) : DestAligned f := by
  cases h with
  | turns h => exact h.aligned aligned
  | posted h => exact h.aligned nofun
  | kept _ _ dest => exact fun d held => (dest d held).elim (aligned d) id
  | reset => exact nofun

/-! ### The laws -/

theorem queues_change (h : Change s t) (lawful : QueuesWithinCapacity s) : QueuesWithinCapacity t := by
  obtain ⟨posts, jobs, completions⟩ := lawful
  exact ⟨room_postsChange (postsChange h) posts, queues_engineChange (engineChange h) jobs completions⟩

theorem oneWaiting_change (h : Change s t) (one : OneWaitingPerLine s) : OneWaitingPerLine t :=
  (oneWaitingPerLine_iff t).mpr (waiting_postsChange (postsChange h) ((oneWaitingPerLine_iff s).mp one))

theorem readAhead_change (h : Change s t) (lawful : ReadAheadLawful s) : ReadAheadLawful t :=
  fun n => lawful_streamChange (streamChange h n) (lawful n)

theorem linesAligned_change (h : Change s t) (aligned : LinesAligned s) : LinesAligned t := by
  obtain ⟨streams, -, dest⟩ := (linesAligned_iff s).mp aligned
  exact (linesAligned_iff t).mpr ⟨fun n => aligned_streamChange (streamChange h n) (streams n),
    aligned_postsChange (postsChange h) aligned, aligned_engineChange (engineChange h) dest⟩

theorem debt_change (h : Change s t) (capped : DebtCapped s) : DebtCapped t := by
  have kept {f : Frame} (h : frameOf (vital t) = f) (same : f.debt = s.renewal.debt) : DebtCapped t := by
    have debt : t.renewal.debt = f.debt := congrArg Frame.debt h
    rw [DebtCapped, debt, same]
    exact capped
  cases frameChange h with
  | calm h => exact kept h rfl
  | aside h => exact h.debt capped
  | owned _ _ _ h => exact kept h rfl
  | returned _ h => exact kept h rfl
  | store _ h => exact kept h rfl
  | enterResetting h =>
    subst h
    exact kept (frameOf_enterResetting s) rfl
  | fall h =>
    subst h
    obtain ⟨m, d, frame⟩ := fall_frame s
    rw [frame]
    exact capped
  | rise h =>
    subst h
    exact Nat.zero_le _

end Sys2Proof.Proofs.QueueLaws

/-! PROOFS. The ownership of slots (R21, R22) as a count of holders, and how a slot passes from one owner to another. -/

namespace Sys2Proof.Proofs.SlotMoves

open Sys2Proof Sys2Proof.Machine Sys2Proof.Safety Sys2Proof.Laws
open Sys2Proof.Proofs.LinePool Sys2Proof.Proofs.Coherence Sys2Proof.Proofs.Changes Sys2Proof.Proofs.StreamChanges
open Sys2Proof.Proofs.BankChanges Sys2Proof.Proofs.BankLaws Sys2Proof.Proofs.QueueLaws

variable {s t : State} {v w : Vital}

/-! ### Holders and owners in the vital part -/

/-- A bank's fetch, if it is discarded. -/
def discardSlot (o : Option OwnerRecord) : Option SlotId :=
  (o.filter fun r => r.op = .fetch ∧ r.discard = true).map OwnerRecord.slot

/-- The slots that the holders of an owner kind hold. -/
def holders (v : Vital) : Owner → List SlotId
  | .free => []
  | .read n => readSlots v.streams[n]
  | .assembly n => assemblySlots v.streams[n]
  | .post => v.entries.map PostEntry.slot
  | .jobSource k => (v.engine.buffers[k].map SourceBuffer.slot).toList
  | .jobDest => (v.engine.dest.map DestLine.slot).toList
  | .discard => (List.finRange 4).filterMap fun b => discardSlot (v.banks b).2

/-- The owner of a slot. -/
def ownerOf (v : Vital) (k : SlotId) : Owner := v.slots[k].owner

theorem holderSlots_eq (s : State) (o : Owner) : holderSlots s o = holders (vital s) o := by cases o <;> rfl

/-- How often the holders of an owner kind hold a slot. -/
def heldBy (v : Vital) (o : Owner) (k : SlotId) : Nat := (holders v o).count k

/-- What an owner owns counts once. -/
def owns (v : Vital) (o : Owner) (k : SlotId) : Nat := if o ≠ .free ∧ o = ownerOf v k then 1 else 0

/-- Every slot that something holds has that holder as its owner, and no two hold it. -/
def HeldIsOwned (v : Vital) : Prop := ∀ o k, heldBy v o k ≤ owns v o k

/-- Every owned slot has its holder. -/
def OwnedIsHeld (v : Vital) : Prop := ∀ o k, owns v o k ≤ heldBy v o k

theorem heldIsOwned_iff : HeldIsOwned v ↔ (∀ o k, k ∈ holders v o → ownerOf v k = o) ∧ ∀ o, (holders v o).Nodup := by
  constructor
  · intro h
    refine ⟨fun o k held => ?_, fun o => List.nodup_iff_count_le_one.mpr fun k => (h o k).trans ?_⟩
    · have once : 0 < owns v o k := Nat.lt_of_lt_of_le (List.count_pos_iff.mpr held) (h o k)
      unfold owns at once
      split at once
      · next owned => exact owned.2.symm
      · cases once
    · unfold owns
      split <;> decide
  · intro ⟨owned, apart⟩ o k
    by_cases held : k ∈ holders v o
    · have kind : o ≠ .free := fun free => by
        subst free
        cases held
      rw [owns, if_pos ⟨kind, (owned o k held).symm⟩]
      exact List.nodup_iff_count_le_one.mp (apart o) k
    · exact (List.count_eq_zero_of_not_mem held).trans_le (Nat.zero_le _)

theorem ownedIsHeld_iff : OwnedIsHeld v ↔ ∀ k o, o ≠ .free → ownerOf v k = o → k ∈ holders v o := by
  constructor
  · intro h k o kind owned
    have once := h o k
    rw [owns, if_pos ⟨kind, owned.symm⟩] at once
    exact List.count_pos_iff.mp once
  · intro h o k
    unfold owns
    split
    · next owned => exact List.count_pos_iff.mpr (h k o owned.1 owned.2.symm)
    · exact Nat.zero_le _

theorem eq_of_mem_filterMap {α β : Type} {f : α → Option β} {l : List α} (apart : (l.filterMap f).Nodup) {a b : α}
    (ha : a ∈ l) (hb : b ∈ l) {k : β} (fa : f a = some k) (fb : f b = some k) : a = b := by
  induction l with
  | nil => cases ha
  | cons x l ih =>
    have tail : (l.filterMap f).Nodup := apart.sublist ((List.sublist_cons_self x l).filterMap f)
    have fresh (hx : f x = some k) : ∀ y ∈ l, f y ≠ some k := fun y hy fy => by
      rw [List.filterMap_cons_some hx] at apart
      exact (List.nodup_cons.mp apart).1 (List.mem_filterMap.mpr ⟨y, hy, fy⟩)
    rcases List.mem_cons.mp ha with rfl | inA <;> rcases List.mem_cons.mp hb with rfl | inB
    · rfl
    · exact absurd fb (fresh fa b inB)
    · exact absurd fa (fresh fb a inA)
    · exact ih tail inA inB

theorem discardSlot_eq_some {o : Option OwnerRecord} {k : SlotId} : discardSlot o = some k ↔
    ∃ r : OwnerRecord, o = some r ∧ r.op = .fetch ∧ r.discard = true ∧ r.slot = k := by
  simp [discardSlot, Option.filter_eq_some_iff, and_assoc]

theorem mem_discards {k : SlotId} : k ∈ holders v .discard ↔
    ∃ (b : BankId) (r : OwnerRecord), (v.banks b).2 = some r ∧ r.op = .fetch ∧ r.discard = true ∧ r.slot = k := by
  simp [holders, discardSlot_eq_some]

/-- The laws of R21 are that what is held is owned. -/
theorem slotsLawful_iff (s : State) : SlotsLawful s ↔ HeldIsOwned (vital s) := by
  rw [heldIsOwned_iff]
  constructor
  · intro lawful
    refine ⟨fun o k held => ?_, fun o => holderSlots_eq s o ▸ nodup_holderSlots lawful o⟩
    rw [← holderSlots_eq] at held
    cases o with
    | free => cases held
    | read n =>
      obtain ⟨r, e, hr, he, rfl⟩ := mem_readSlots.mp held
      exact lawful.readOwned n r e hr he
    | assembly n =>
      obtain ⟨w, a, hw, ha, rfl⟩ := mem_assemblySlots.mp held
      exact lawful.assemblyOwned n w a hw ha
    | post =>
      obtain ⟨e, he, rfl⟩ := List.mem_map.mp held
      exact lawful.postOwned e he
    | jobSource i =>
      obtain ⟨x, hx, rfl⟩ := Option.map_eq_some_iff.mp (Option.mem_toList.mp held)
      exact lawful.sourceOwned i x hx
    | jobDest =>
      obtain ⟨d, hd, rfl⟩ := Option.map_eq_some_iff.mp (Option.mem_toList.mp held)
      exact lawful.destOwned d hd
    | discard =>
      obtain ⟨b, o, ho, hop, hd, rfl⟩ := mem_holderSlots_discard.mp held
      exact lawful.discardOwned b o ho hop hd
  · intro ⟨owned, apart⟩
    exact {
      readOwned := fun n r e read mem => owned (.read n) e.slot (mem_readSlots.mpr ⟨r, e, read, mem, rfl⟩)
      readApart := fun n r read => by
        have slots := apart (.read n)
        change (readSlots s.streams[n]).Nodup at slots
        rwa [read] at slots
      assemblyOwned := fun n w a write held => owned (.assembly n) a.slot (mem_assemblySlots.mpr ⟨w, a, write, held, rfl⟩)
      postOwned := fun e mem => owned .post e.slot (List.mem_map_of_mem mem)
      postApart := apart .post
      sourceOwned := fun k x buffer => owned (.jobSource k) x.slot
        (Option.mem_toList.mpr (Option.map_eq_some_iff.mpr ⟨x, buffer, rfl⟩))
      destOwned := fun d dest => owned .jobDest d.slot
        (Option.mem_toList.mpr (Option.map_eq_some_iff.mpr ⟨d, dest, rfl⟩))
      discardOwned := fun b o owner op marked => owned .discard o.slot (mem_discards.mpr ⟨b, o, owner, op, marked, rfl⟩)
      discardApart := fun b c o p hb hc ob oc db dc same => eq_of_mem_filterMap (apart .discard) (List.mem_finRange b)
        (List.mem_finRange c) (discardSlot_eq_some.mpr ⟨o, hb, ob, db, rfl⟩)
        (discardSlot_eq_some.mpr ⟨p, hc, oc, dc, same.symm⟩) }

/-- A claim for the destination line is the Move Engine's, which then holds none. -/
def DestClaims (v : Vital) : Prop := ∀ (c : Fin 9) (x : Claim), v.claims[c] = some x → x.purpose = .jobDest →
  c = 8 ∧ v.engine.dest = none

/-- The laws of R22 are that what is owned is held, beside the two laws of the claims. -/
theorem slotsHeld_iff (s : State) : SlotsHeld s ↔
    OwnedIsHeld (vital s) ∧ (∀ n : StreamId, WaitsEmpty s.streams[n]) ∧ DestClaims (vital s) := by
  rw [ownedIsHeld_iff]
  constructor
  · intro held
    refine ⟨fun k o kind owned => ?_, held.waitsEmpty, held.destClaimed⟩
    cases o with
    | free => exact absurd rfl kind
    | read n => exact mem_readSlots.mpr (held.readHeld k n owned)
    | assembly n => exact mem_assemblySlots.mpr (held.assemblyHeld k n owned)
    | post => exact List.mem_map.mpr (held.postHeld k owned)
    | jobSource i => exact Option.mem_toList.mpr (Option.map_eq_some_iff.mpr (held.sourceHeld k i owned))
    | jobDest => exact Option.mem_toList.mpr (Option.map_eq_some_iff.mpr (held.destHeld k owned))
    | discard => exact mem_discards.mpr (held.discardHeld k owned)
  · intro ⟨held, empty, claims⟩
    exact {
      readHeld := fun k n owned => mem_readSlots.mp (held k (.read n) nofun owned)
      assemblyHeld := fun k n owned => mem_assemblySlots.mp (held k (.assembly n) nofun owned)
      postHeld := fun k owned => List.mem_map.mp (held k .post nofun owned)
      sourceHeld := fun k i owned => Option.map_eq_some_iff.mp (Option.mem_toList.mp (held k (.jobSource i) nofun owned))
      destHeld := fun k owned => Option.map_eq_some_iff.mp (Option.mem_toList.mp (held k .jobDest nofun owned))
      discardHeld := fun k owned => mem_discards.mp (held k .discard nofun owned)
      waitsEmpty := empty
      destClaimed := claims }

/-! ### A slot passes from one owner to another -/

/-- Counts one if a slot of an owner kind is meant. -/
def at_ (o a : Owner) (j k : SlotId) : Nat := if o ≠ .free ∧ o = a ∧ j = k then 1 else 0

/-- Slot k passes from owner a to owner b: the holders of a hold it no longer, and no other than those of b more. -/
structure Passes (v w : Vital) (k : SlotId) (a b : Owner) : Prop where
  owner : ∀ j, ownerOf w j = if j = k then b else ownerOf v j
  before : ownerOf v k = a
  holders : ∀ o j, heldBy w o j + at_ o a j k ≤ heldBy v o j + at_ o b j k

/-- The holders of b hold it then, and those of a held no more than it. -/
def Fully (v w : Vital) (k : SlotId) (a b : Owner) : Prop :=
  ∀ o j, heldBy v o j + at_ o b j k ≤ heldBy w o j + at_ o a j k

theorem owns_passes {k : SlotId} {a b : Owner} (pass : Passes v w k a b) (o : Owner) (j : SlotId) :
    owns w o j + at_ o a j k = owns v o j + at_ o b j k := by
  unfold owns at_
  rw [pass.owner j]
  by_cases here : j = k
  · subst here
    rw [pass.before, if_pos rfl]
    simp only [and_true]
    exact Nat.add_comm _ _
  · simp [here]

theorem heldIsOwned_of_passes {k : SlotId} {a b : Owner} (pass : Passes v w k a b) (lawful : HeldIsOwned v) : HeldIsOwned w := by
  intro o j
  have := pass.holders o j
  have := owns_passes pass o j
  have := lawful o j
  omega

theorem ownedIsHeld_of_passes {k : SlotId} {a b : Owner} (pass : Passes v w k a b) (fully : Fully v w k a b)
    (held : OwnedIsHeld v) : OwnedIsHeld w := by
  intro o j
  have := fully o j
  have := owns_passes pass o j
  have := held o j
  omega

/-- A slot passes, or nothing does; under a condition fully. -/
def Moved (v w : Vital) (condition : Prop) : Prop := ∃ k a b, Passes v w k a b ∧ (condition → Fully v w k a b)

theorem moved_of_same {p : Prop} (owner : ∀ j, ownerOf w j = ownerOf v j)
    (less : ∀ o, (holders w o).Subperm (holders v o)) (more : p → ∀ o, (holders v o).Subperm (holders w o)) : Moved v w p := by
  refine ⟨0, ownerOf v 0, ownerOf v 0, ⟨fun j => ?_, rfl, fun o j => ?_⟩, fun h o j => ?_⟩
  · split
    · next here => rw [here, owner]
    · exact owner j
  · exact Nat.add_le_add_right ((less o).count_le j) _
  · exact Nat.add_le_add_right ((more h o).count_le j) _

theorem moved_of_eq {p : Prop} (owner : ∀ j, ownerOf w j = ownerOf v j) (same : ∀ o, holders w o = holders v o) : Moved v w p :=
  moved_of_same owner (fun o => same o ▸ List.Subperm.refl _) fun _ o => same o ▸ List.Subperm.refl _

/-- A slot passes from owner a to owner b, and what each kind holds follows. -/
theorem moved_of_subperm {p : Prop} {k : SlotId} {a b : Owner} (apart : a ≠ b)
    (owner : ∀ j, ownerOf w j = if j = k then b else ownerOf v j) (before : ownerOf v k = a)
    (others : ∀ o, o ≠ a → o ≠ b → holders w o = holders v o)
    (gives : a ≠ .free → (k :: holders w a).Perm (holders v a))
    (takes : b ≠ .free → (holders w b).Subperm (k :: holders v b))
    (taken : p → b ≠ .free → (k :: holders v b).Subperm (holders w b)) : Moved v w p := by
  have count (o : Owner) (j : SlotId) : o ≠ .free → (if k == j then 1 else 0) = at_ o o j k := fun kind => by
    by_cases here : k = j
    · simp [at_, kind, here]
    · simp [at_, here, Ne.symm here]
  have zero (o c : Owner) (j : SlotId) (h : o = .free ∨ o ≠ c) : at_ o c j k = 0 := if_neg fun x => h.elim x.1 fun d => d x.2.1
  have given (o : Owner) (j : SlotId) (h : o = a) : heldBy w o j + at_ o a j k = heldBy v o j := by
    subst h
    by_cases kind : o = .free
    · rw [zero o o j (.inl kind), kind]
      rfl
    · have := (gives kind).count_eq j
      rw [List.count_cons, count o j kind] at this
      exact this
  have got (o : Owner) (j : SlotId) (h : o = b) : heldBy w o j ≤ heldBy v o j + at_ o b j k := by
    subst h
    by_cases kind : o = .free
    · rw [kind]
      exact Nat.zero_le _
    · have := (takes kind).count_le j
      rwa [List.count_cons, count o j kind] at this
  refine ⟨k, a, b, ⟨owner, before, fun o j => ?_⟩, fun h o j => ?_⟩
  · by_cases ha : o = a
    · rw [given o j ha]
      exact Nat.le_add_right _ _
    · rw [zero o a j (.inr ha)]
      by_cases hb : o = b
      · exact got o j hb
      · unfold heldBy
        rw [others o ha hb]
        exact Nat.le_add_right _ _
  · by_cases ha : o = a
    · rw [given o j ha, zero o b j (.inr (ha ▸ apart))]
      exact Nat.le_refl _
    · rw [zero o a j (.inr ha)]
      by_cases hb : o = b
      · subst hb
        by_cases kind : o = .free
        · rw [zero o o j (.inl kind), kind]
          exact Nat.le_refl _
        · have := (taken h kind).count_le j
          rwa [List.count_cons, count o j kind] at this
      · unfold heldBy
        rw [others o ha hb, zero o b j (.inr hb)]

theorem moved_of_perm {p : Prop} {k : SlotId} {a b : Owner} (apart : a ≠ b)
    (owner : ∀ j, ownerOf w j = if j = k then b else ownerOf v j) (before : ownerOf v k = a)
    (others : ∀ o, o ≠ a → o ≠ b → holders w o = holders v o)
    (gives : a ≠ .free → (k :: holders w a).Perm (holders v a))
    (takes : b ≠ .free → (holders w b).Perm (k :: holders v b)) : Moved v w p :=
  moved_of_subperm apart owner before others gives (fun kind => (takes kind).subperm) fun _ kind => (takes kind).symm.subperm

end Sys2Proof.Proofs.SlotMoves

/-! PROOFS. Every change is a slot that passes from one owner to another, or leaves the holders as they are (R21, R22). -/

namespace Sys2Proof.Proofs.SlotChanges

open Sys2Proof Sys2Proof.Machine Sys2Proof.Safety Sys2Proof.Laws
open Sys2Proof.Proofs.LinePool Sys2Proof.Proofs.Coherence Sys2Proof.Proofs.Changes Sys2Proof.Proofs.StreamChanges
open Sys2Proof.Proofs.BankChanges Sys2Proof.Proofs.BankLaws Sys2Proof.Proofs.QueueLaws Sys2Proof.Proofs.SlotMoves
open Sys2Proof.Proofs.ActionChanges Sys2Proof.Proofs.PinReset Sys2Proof.Proofs.StepChanges

variable {s t : State} {v w : Vital} {n : StreamId} {o : Owner} {k : SlotId}

/-! ### Letting an entry go, in the vital part -/

theorem letGoIn_flying {e : ReadEntry} (flying : e.state = .inFlight) (v : Vital) : letGoIn v e =
    withBanks (ownIn v e.slot .discard) fun c =>
      if c = bankOf e.line then ((v.banks c).1, markedOwner e.slot (v.banks c).2) else v.banks c := if_pos flying

theorem letGoIn_landed {e : ReadEntry} (landed : e.state ≠ .inFlight) (v : Vital) : letGoIn v e = ownIn v e.slot .free :=
  if_neg landed

/-! ### Owners -/

theorem ownerOf_ownIn (v : Vital) (k : SlotId) (o : Owner) (j : SlotId) :
    ownerOf (ownIn v k o) j = if j = k then o else ownerOf v j := by
  unfold ownerOf ownIn withSlots
  by_cases h : j = k
  · subst h
    simp
  · have apart : k.val ≠ j.val := fun same => h (Fin.ext same.symm)
    simp [h, apart]

theorem owner_mergePost (s : State) (e : PostEntry) (line : Nat) (mask : ByteMask) (k j : SlotId) :
    ownerOf (vital (s.mergePost e line mask k)) j = if j = k then .free else ownerOf (vital s) j := by
  change (s.mergePost e line mask k).pool.slots[j].owner = _
  rw [State.mergePost, owner_patchFilled, State.release, owner_own]
  split
  · rfl
  · exact owner_fillSlot s e.slot _ j

theorem owner_appendPost (s : State) (line : Nat) (mask : ByteMask) (k j : SlotId) :
    ownerOf (vital (s.appendPost line mask k)) j = if j = k then .post else ownerOf (vital s) j := by
  change (s.appendPost line mask k).pool.slots[j].owner = _
  rw [State.appendPost, owner_patchFilled, owner_own]
  rfl

/-! ### Holders -/

@[simp] theorem holders_withSlots (v : Vital) (x : Vector Slot 48) (o : Owner) : holders (withSlots v x) o = holders v o := by
  cases o <;> rfl

@[simp] theorem holders_ownIn (v : Vital) (k : SlotId) (p o : Owner) : holders (ownIn v k p) o = holders v o :=
  holders_withSlots _ _ _

@[simp] theorem holders_withClaims (v : Vital) (x : Vector (Option Claim) 9) (o : Owner) :
    holders (withClaims v x) o = holders v o := by cases o <;> rfl

theorem holders_withEntries_other (v : Vital) (x : List PostEntry) (other : o ≠ .post) :
    holders (withEntries v x) o = holders v o := by
  cases o with
  | post => exact absurd rfl other
  | _ => rfl

theorem holders_withEntries {x : List PostEntry} (same : x.map PostEntry.slot = v.entries.map PostEntry.slot) (o : Owner) :
    holders (withEntries v x) o = holders v o := by
  cases o with
  | post => exact same
  | _ => rfl

theorem holders_setStreamIn_other (c : Stream) (read : o ≠ .read n) (assembly : o ≠ .assembly n) :
    holders (setStreamIn v n c) o = holders v o := by
  have apart (m : StreamId) (h : m ≠ n) : (v.streams.set n.val c)[m] = v.streams[m] := by
    have apart : n.val ≠ m.val := fun same => h (Fin.ext same.symm)
    simp [apart]
  cases o with
  | read m => exact congrArg readSlots (apart m fun same => read (congrArg Owner.read same))
  | assembly m => exact congrArg assemblySlots (apart m fun same => assembly (congrArg Owner.assembly same))
  | _ => rfl

theorem holders_setStreamIn_read (v : Vital) (n : StreamId) (c : Stream) :
    holders (setStreamIn v n c) (.read n) = readSlots c := by simp [holders, setStreamIn]

theorem holders_setStreamIn_assembly (v : Vital) (n : StreamId) (c : Stream) :
    holders (setStreamIn v n c) (.assembly n) = assemblySlots c := by simp [holders, setStreamIn]

theorem holders_read (v : Vital) (n : StreamId) : holders v (.read n) = readSlots v.streams[n] := rfl

theorem holders_assembly (v : Vital) (n : StreamId) : holders v (.assembly n) = assemblySlots v.streams[n] := rfl

theorem readSlots_eq (c : Stream) : readSlots c = c.entries.map ReadEntry.slot := by cases c <;> rfl

/-- A stream that keeps its assembly's slot changes what its read-ahead queue holds alone. -/
theorem holders_setStreamIn_queue {c : Stream} (kept : assemblySlots c = assemblySlots v.streams[n]) (other : o ≠ .read n) :
    holders (setStreamIn v n c) o = holders v o := by
  by_cases assembly : o = .assembly n
  · subst assembly
    rw [holders_setStreamIn_assembly, kept, holders_assembly]
  · exact holders_setStreamIn_other c other assembly

theorem holders_setStreamIn_gathering {c : Stream} (kept : readSlots c = readSlots v.streams[n]) (other : o ≠ .assembly n) :
    holders (setStreamIn v n c) o = holders v o := by
  by_cases read : o = .read n
  · subst read
    rw [holders_setStreamIn_read, kept, holders_read]
  · exact holders_setStreamIn_other c read other

theorem holders_withEngineIn {e : Engine} (buffers : ∀ k : Fin 2, o = .jobSource k →
      e.buffers[k].map SourceBuffer.slot = v.engine.buffers[k].map SourceBuffer.slot)
    (dest : o = .jobDest → e.dest.map DestLine.slot = v.engine.dest.map DestLine.slot) :
    holders (withEngineIn v e) o = holders v o := by
  cases o with
  | jobSource k => exact congrArg Option.toList (buffers k rfl)
  | jobDest => exact congrArg Option.toList (dest rfl)
  | _ => rfl

theorem holders_setBuffer {i : Fin 2} {x : Option SourceBuffer} (other : o ≠ .jobSource i) :
    holders (withEngineIn v { v.engine with buffers := v.engine.buffers.set i.val x }) o = holders v o := by
  have kept (k : Fin 2) (h : o = .jobSource k) : (v.engine.buffers.set i.val x)[k] = v.engine.buffers[k] := by
    have apart : k ≠ i := fun same => other (h.trans (congrArg Owner.jobSource same))
    rw [getElem_set_buffer, if_neg apart]
  exact holders_withEngineIn (e := { v.engine with buffers := v.engine.buffers.set i.val x })
    (fun k h => congrArg (Option.map SourceBuffer.slot) (kept k h)) fun _ => rfl

theorem holders_setDest {x : Option DestLine} (other : o ≠ .jobDest) :
    holders (withEngineIn v { v.engine with dest := x }) o = holders v o :=
  holders_withEngineIn (e := { v.engine with dest := x }) (fun _ _ => rfl) fun h => absurd h other

theorem holders_withBanks_other (f : BankId → BankState × Option OwnerRecord) (other : o ≠ .discard) :
    holders (withBanks v f) o = holders v o := by
  cases o with
  | discard => exact absurd rfl other
  | _ => rfl

theorem holders_withBanks {f : BankId → BankState × Option OwnerRecord}
    (same : ∀ b, discardSlot (f b).2 = discardSlot (v.banks b).2) (o : Owner) : holders (withBanks v f) o = holders v o := by
  cases o with
  | discard => exact List.filterMap_congr fun b _ => same b
  | _ => rfl

/-- A place of a list that begins to give a value adds it. -/
theorem filterMap_begins {α β : Type} {f g : α → Option β} {l : List α} (apart : l.Nodup) {i : α} (mem : i ∈ l) {x : β}
    (before : f i = none) (after : g i = some x) (others : ∀ j, j ≠ i → g j = f j) :
    (l.filterMap g).Perm (x :: l.filterMap f) := by
  classical
  have front := List.perm_cons_erase mem
  have rest : (l.erase i).filterMap g = (l.erase i).filterMap f := List.filterMap_congr fun j hj =>
    others j fun same => (List.Nodup.not_mem_erase apart) (same ▸ hj)
  calc (l.filterMap g).Perm ((i :: l.erase i).filterMap g) := front.filterMap g
    _ = x :: (l.erase i).filterMap f := by rw [List.filterMap_cons_some after, rest]
    _ = x :: (i :: l.erase i).filterMap f := by rw [List.filterMap_cons_none before]
    List.Perm _ (x :: l.filterMap f) := (front.filterMap f).symm.cons x

theorem holders_withBanks_discard {f : BankId → BankState × Option OwnerRecord} {b : BankId}
    (before : discardSlot (v.banks b).2 = none) (after : discardSlot (f b).2 = some k)
    (others : ∀ c, c ≠ b → (f c).2 = (v.banks c).2) :
    (holders (withBanks v f) .discard).Perm (k :: holders v .discard) :=
  filterMap_begins (List.nodup_finRange 4) (List.mem_finRange b) before after fun c other =>
    congrArg discardSlot (others c other)

theorem holders_withBanks_return {f : BankId → BankState × Option OwnerRecord} {b : BankId}
    (before : discardSlot (v.banks b).2 = some k) (after : discardSlot (f b).2 = none)
    (others : ∀ c, c ≠ b → (f c).2 = (v.banks c).2) :
    (k :: holders (withBanks v f) .discard).Perm (holders v .discard) :=
  (filterMap_begins (List.nodup_finRange 4) (List.mem_finRange b) after before fun c other =>
    (congrArg discardSlot (others c other)).symm).symm

theorem updateFirst_map {α β : Type} {p : α → Bool} {f : α → α} {g : α → β} (keeps : ∀ x, g (f x) = g x) (l : List α) :
    (updateFirst p f l).map g = l.map g := by
  induction l with
  | nil => rfl
  | cons x xs ih =>
    unfold updateFirst
    split
    · rw [List.map_cons, keeps, List.map_cons]
    · rw [List.map_cons, ih, List.map_cons]

/-! ### The changes that leave every slot with its holder -/

variable {p : Prop}

theorem moved_aside (h : Aside s t) : Moved (vital s) (vital t) p := by
  refine moved_of_eq (fun j => ?_) fun o => ?_
  · exact congrArg (fun slots : Vector Slot 48 => slots[j].owner) h.slots
  · cases o with
    | free => rfl
    | read n => exact congrArg (fun x : Vector Stream 8 => readSlots x[n]) h.streams
    | assembly n => exact congrArg (fun x : Vector Stream 8 => assemblySlots x[n]) h.streams
    | post => exact congrArg (List.map PostEntry.slot) h.entries
    | jobSource k => exact congrArg (fun e : Engine => (e.buffers[k].map SourceBuffer.slot).toList) h.engine
    | jobDest => exact congrArg (fun e : Engine => (e.dest.map DestLine.slot).toList) h.engine
    | discard => exact List.filterMap_congr fun b _ => congrArg discardSlot (h.owners b)

theorem moved_stream {c : Stream} (turns : StreamTurns s.streams[n] c) :
    Moved (vital s) (vital (s.setStream n c)) (∀ n : StreamId, WaitsEmpty s.streams[n]) := by
  have reads : readSlots c = readSlots s.streams[n] := by rw [readSlots_eq, turns.entries, readSlots_eq]
  rw [vital_setStream]
  refine moved_of_same (fun _ => rfl) (fun o => ?_) fun empty o => ?_
  all_goals by_cases here : o = .assembly n
  case pos =>
    subst here
    rw [holders_setStreamIn_assembly, holders_assembly]
    rcases turns.assembly with same | ⟨none, -⟩
    · exact (List.Perm.of_eq same).subperm
    · rw [none]
      exact List.nil_subperm
  case neg => rw [holders_setStreamIn_gathering (v := vital s) reads here]
  case pos =>
    subst here
    rw [holders_setStreamIn_assembly, holders_assembly]
    rcases turns.assembly with same | ⟨-, x, write, blocked⟩
    · exact (List.Perm.of_eq same.symm).subperm
    · have none : assemblySlots (vital s).streams[n] = [] := by
        change assemblySlots s.streams[n] = []
        rw [write, assemblySlots, empty n x write blocked]
        rfl
      rw [none]
      exact List.nil_subperm
  case neg => rw [holders_setStreamIn_gathering (v := vital s) reads here]

theorem moved_engine {e : Engine} (turns : EngineTurns s.engine e) : Moved (vital s) (vital (s.withEngine e)) p := by
  rw [vital_withEngine]
  exact moved_of_eq (fun _ => rfl) fun o => holders_withEngineIn (fun k _ => turns.buffers k) fun _ => turns.dest

/-- A bank that takes an owner without the discard mark holds no more slots. -/
theorem discardSlot_kept {o : OwnerRecord} (kept : o.discard = false) : discardSlot (some o) = none := by
  simp [discardSlot, kept]

theorem discardSlot_of_owner {b : BankId} {x : OwnerRecord} (owner : s.seq.banks[b].owner = some x)
    (kept : x.discard = false) : discardSlot ((vital s).banks b).2 = none :=
  (congrArg discardSlot owner).trans (discardSlot_kept kept)

theorem holders_ownedIn {b : BankId} {o : OwnerRecord} (free : (v.banks b).2 = none) (kept : o.discard = false) (x : Owner) :
    holders (ownedIn b o v) x = holders v x := by
  refine holders_withBanks (fun c => ?_) x
  split
  · next here => rw [here, free, discardSlot_kept kept]; rfl
  · rfl

theorem owner_kept (q : Request) (p : Fin 10) : (q.owner p).discard = false := rfl

theorem readSlots_passEntry (r : ReadStream) (k : SlotId) (was next : EntryState) :
    readSlots (.read (r.passEntry k was next)) = readSlots (.read r) := by
  simp only [readSlots, ReadStream.passEntry, List.map_map]
  refine List.map_congr_left fun e _ => ?_
  simp only [Function.comp_apply]
  split <;> rfl

theorem buffers_map_slot {e : Engine} {f : SourceBuffer → SourceBuffer} (slots : ∀ x, (f x).slot = x.slot) (k : Fin 2) :
    (e.buffers.map (Option.map f))[k].map SourceBuffer.slot = e.buffers[k].map SourceBuffer.slot := by
  simp only [Fin.getElem_fin, Vector.getElem_map, Option.map_map]
  exact Option.map_congr fun y _ => slots y

theorem vital_bufferReturn (s : State) (k : SlotId) (l : Line) : vital (s.bufferReturn k l) =
    withEngineIn (withSlots (vital s) (s.fillSlot k l).pool.slots)
      { s.engine with buffers := s.engine.buffers.map (Option.map (SourceBuffer.fill k)) } := rfl

theorem moved_grant {x : Fin 10} {q : Request} (free : s.seq.banks[bankOf q.line].owner = none)
    (told : Granted s x q w) : Moved (vital s) w p := by
  have kept (o : Owner) := holders_ownedIn (v := vital s) (b := bankOf q.line) free (owner_kept q x) o
  cases told with
  | @entry n r e position read =>
    refine moved_of_eq (fun _ => rfl) fun o => ?_
    have same : readSlots (.read (r.passEntry q.slot .requested .inFlight)) = readSlots (vital s).streams[n] :=
      (readSlots_passEntry r q.slot .requested .inFlight).trans (congrArg readSlots read.symm)
    have gathered : assemblySlots (.read (r.passEntry q.slot .requested .inFlight)) = assemblySlots (vital s).streams[n] := by
      change _ = assemblySlots s.streams[n]
      rw [read]
      rfl
    refine Eq.trans ?_ (kept o)
    by_cases here : o = .read n
    · subst here
      exact (holders_setStreamIn_read _ n _).trans same
    · exact holders_setStreamIn_queue (v := ownedIn (bankOf q.line) (q.owner x) (vital s)) gathered here
  | post =>
    refine moved_of_eq (fun _ => rfl) fun o => ?_
    refine (holders_withEntries (v := ownedIn (bankOf q.line) (q.owner x) (vital s)) ?_ o).trans (kept o)
    exact updateFirst_map (f := fun e : PostEntry => { e with state := .retiring }) (fun _ => rfl) _
  | buffer =>
    refine moved_of_eq (fun _ => rfl) fun o => ?_
    have slots (y : SourceBuffer) : (flown q.slot y).slot = y.slot := by
      unfold flown
      split <;> rfl
    refine Eq.trans (holders_withEngineIn (v := ownedIn (bankOf q.line) (q.owner x) (vital s))
      (e := { s.engine with buffers := s.engine.buffers.map (Option.map (flown q.slot)) }) (fun k _ => ?_) fun _ => rfl) (kept o)
    exact buffers_map_slot slots k

/-! ### Returns and releases of a bank -/

theorem ownerOf_releasedIn (v : Vital) (b : BankId) (j : SlotId) : ownerOf (releasedIn b v) j = ownerOf v j := rfl

theorem holders_releasedIn_other (v : Vital) (b : BankId) (other : o ≠ .discard) :
    holders (releasedIn b v) o = holders v o := by
  cases o with
  | discard => exact absurd rfl other
  | _ => rfl

/-- A release of a bank whose owner holds no slot. -/
theorem holders_releasedIn_kept {b : BankId} (kept : discardSlot (v.banks b).2 = none) (o : Owner) :
    holders (releasedIn b v) o = holders v o := by
  cases o with
  | discard =>
    refine holders_withBanks (v := v) (f := fun c => if c = b then (.opened, none) else v.banks c) (fun c => ?_) .discard
    split
    · next here => rw [here, kept]; rfl
    · rfl
  | _ => rfl

/-- A release of a bank whose discarded fetch held a slot. -/
theorem holders_releasedIn_discard {b : BankId} (before : discardSlot (v.banks b).2 = some k) :
    (k :: holders (releasedIn b v) .discard).Perm (holders v .discard) :=
  holders_withBanks_return (v := v) (f := fun c => if c = b then (.opened, none) else v.banks c) before
    (by rw [if_pos rfl]; rfl) fun c other => by rw [if_neg other]

theorem moved_returnDiscarded {b : BankId} {r : OwnerRecord} (owner : s.seq.banks[b].owner = some r) (op : r.op = .fetch)
    (marked : r.discard = true) (lawful : HeldIsOwned (vital s)) :
    Moved (vital s) (vital (released (s.release r.slot) b)) p := by
  have before : discardSlot ((vital s).banks b).2 = some r.slot := discardSlot_eq_some.mpr ⟨r, owner, op, marked, rfl⟩
  have mem : r.slot ∈ holders (vital s) .discard := mem_discards.mpr ⟨b, r, owner, op, marked, rfl⟩
  rw [vital_released, vital_release]
  refine moved_of_perm (k := r.slot) (a := .discard) (b := .free) nofun (fun j => ?_)
    ((heldIsOwned_iff.mp lawful).1 _ _ mem) (fun o other _ => ?_) (fun _ => ?_) fun h => absurd rfl h
  · rw [ownerOf_releasedIn, ownerOf_ownIn]
  · rw [holders_releasedIn_other _ _ other, holders_ownIn]
  · rw [← holders_ownIn (vital s) r.slot .free .discard]
    exact holders_releasedIn_discard before

theorem moved_returnEntry {b : BankId} {x : OwnerRecord} {r : ReadStream} {l : Line}
    (owner : s.seq.banks[b].owner = some x) (kept : x.discard = false) (read : s.streams[n] = .read r) :
    Moved (vital s) (vital (released ((s.fillSlot x.slot l).setStream n (.read (r.passEntry x.slot .inFlight .filled))) b)) p := by
  rw [vital_released, vital_setStream, vital_fillSlot]
  refine moved_of_eq (fun j => owner_fillSlot s x.slot l j) fun o => ?_
  have same : readSlots (.read (r.passEntry x.slot .inFlight .filled)) = readSlots (.read r) :=
    readSlots_passEntry r x.slot .inFlight .filled
  refine (holders_releasedIn_kept ?_ o).trans ?_
  · exact discardSlot_of_owner owner kept
  by_cases here : o = .read n
  · subst here
    rw [holders_setStreamIn_read, same, ← read]
    rfl
  · rw [holders_setStreamIn_queue (v := withSlots (vital s) _) (by change _ = assemblySlots s.streams[n]; rw [read]; rfl) here,
      holders_withSlots]

theorem moved_returnBuffer {b : BankId} {x : OwnerRecord} {l : Line} (owner : s.seq.banks[b].owner = some x)
    (kept : x.discard = false) : Moved (vital s) (vital (released (s.bufferReturn x.slot l) b)) p := by
  have slots (y : SourceBuffer) : (SourceBuffer.fill x.slot y).slot = y.slot := by
    unfold SourceBuffer.fill
    split <;> rfl
  rw [vital_released, vital_bufferReturn]
  refine moved_of_eq (fun j => owner_fillSlot s x.slot l j) fun o => ?_
  refine (holders_releasedIn_kept ?_ o).trans ?_
  · exact discardSlot_of_owner owner kept
  · refine (holders_withEngineIn (v := withSlots (vital s) (s.fillSlot x.slot l).pool.slots)
      (e := { s.engine with buffers := s.engine.buffers.map (Option.map (SourceBuffer.fill x.slot)) })
      (fun k _ => buffers_map_slot slots k) fun _ => rfl).trans (holders_withSlots _ _ o)

theorem moved_returnLost {b : BankId} {x : OwnerRecord} (owner : s.seq.banks[b].owner = some x) (kept : x.discard = false) :
    Moved (vital s) (vital (released s b)) p := by
  rw [vital_released]
  exact moved_of_eq (fun _ => rfl) fun o => holders_releasedIn_kept (v := vital s) (discardSlot_of_owner owner kept) o

/-! ### The changes by which a slot passes -/

section
variable (lawful : HeldIsOwned (vital s))
include lawful

theorem owner_of_holders (held : k ∈ holders (vital s) o) : ownerOf (vital s) k = o := (heldIsOwned_iff.mp lawful).1 o k held

/-- An entry is let go: its slot is FREE, or is DISCARD until the fetch returns (R44, R118). -/
theorem moved_letGo {r : ReadStream} {e : ReadEntry} {rest : List ReadEntry} (operations : OperationsLawful s)
    (read : s.streams[n] = .read r) (queue : r.queue = e :: rest) :
    Moved (vital s) (vital ((s.releaseEntry e).setStream n (.read { r with queue := rest }))) p := by
  have mem : e ∈ r.queue := queue ▸ List.mem_cons_self
  have held : holders (vital s) (.read n) = e.slot :: rest.map ReadEntry.slot := by
    change readSlots s.streams[n] = _
    rw [read, readSlots, queue, List.map_cons]
  have before : ownerOf (vital s) e.slot = .read n := owner_of_holders lawful (held ▸ List.mem_cons_self)
  have gives : (e.slot :: rest.map ReadEntry.slot).Perm (holders (vital s) (.read n)) := List.Perm.of_eq held.symm
  have unread : assemblySlots (.read { r with queue := rest }) = assemblySlots (vital s).streams[n] := by
    change _ = assemblySlots s.streams[n]
    rw [read]
    rfl
  rw [vital_setStream, vital_releaseEntry]
  by_cases flying : e.state = .inFlight
  · obtain ⟨x, owner, op, kept, -, -, slot⟩ := operations.entryUnderWay n r e read mem flying
    rw [letGoIn_flying flying]
    refine moved_of_perm (a := .read n) (b := .discard) nofun (ownerOf_ownIn (vital s) e.slot .discard) before
      (fun o here other => ?_) (fun _ => ?_) fun _ => ?_
    · rw [holders_setStreamIn_queue (v := withBanks _ _) unread here, holders_withBanks_other _ other, holders_ownIn]
    · rw [holders_setStreamIn_read]
      exact gives
    · rw [holders_setStreamIn_other (o := .discard) (n := n) _ nofun nofun, ← holders_ownIn (vital s) e.slot .discard .discard]
      refine holders_withBanks_discard (b := bankOf e.line) ?_ ?_ fun c other => congrArg Prod.snd (if_neg other)
      · exact discardSlot_of_owner owner kept
      · have marked : markedOwner e.slot s.seq.banks[bankOf e.line].owner = some { x with discard := true } := by
          rw [owner, markedOwner, Option.map_some, if_pos ⟨op, slot⟩]
        rw [if_pos rfl]
        exact discardSlot_eq_some.mpr ⟨_, marked, op, rfl, slot⟩
  · rw [letGoIn_landed flying]
    refine moved_of_perm (a := .read n) (b := .free) nofun (ownerOf_ownIn (vital s) e.slot .free) before
      (fun o here _ => ?_) (fun _ => ?_) fun h => absurd rfl h
    · rw [holders_setStreamIn_queue (v := ownIn _ _ _) unread here, holders_ownIn]
    · rw [holders_setStreamIn_read]
      exact gives

omit lawful in
theorem moved_append {r : ReadStream} (read : s.streams[n] = .read r) (free : s.pool.slots[k].owner = .free) :
    Moved (vital s) (vital ((s.own k (.read n)).setStream n (.read (r.append k)))) p := by
  have unread : assemblySlots (.read (r.append k)) = assemblySlots (vital s).streams[n] := by
    change _ = assemblySlots s.streams[n]
    rw [read]
    rfl
  rw [vital_setStream, vital_own]
  refine moved_of_perm (a := .free) (b := .read n) nofun (ownerOf_ownIn (vital s) k _) free (fun o _ here => ?_)
    (fun h => absurd rfl h) fun _ => ?_
  · rw [holders_setStreamIn_queue (v := ownIn _ _ _) unread here, holders_ownIn]
  · have held : holders (vital s) (.read n) = r.queue.map ReadEntry.slot := congrArg readSlots read
    rw [holders_setStreamIn_read, held, readSlots, ReadStream.append, List.map_append]
    exact List.perm_append_singleton _ _

omit lawful in
theorem moved_gather {x : WriteStream} (write : s.streams[n] = .write x)
    (empty : x.assembly = none ∨ x.state = .blocked .noSlot) (free : s.pool.slots[k].owner = .free) :
    Moved (vital s) (vital ((s.own k (.assembly n)).setStream n (.write (x.withAssembly k))))
      (∀ n : StreamId, WaitsEmpty s.streams[n]) := by
  have unread : readSlots (.write (x.withAssembly k)) = readSlots (vital s).streams[n] := by
    change _ = readSlots s.streams[n]
    rw [write]
    rfl
  rw [vital_setStream, vital_own]
  refine moved_of_subperm (a := .free) (b := .assembly n) nofun (ownerOf_ownIn (vital s) k _) free (fun o _ here => ?_)
    (fun h => absurd rfl h) (fun _ => ?_) fun waits _ => ?_
  · rw [holders_setStreamIn_gathering (v := ownIn _ _ _) unread here, holders_ownIn]
  · rw [holders_setStreamIn_assembly]
    exact (List.subperm_cons k).mpr List.nil_subperm
  · have none : x.assembly = none := empty.elim id (waits n x write)
    have held : holders (vital s) (.assembly n) = [] := by
      change assemblySlots s.streams[n] = []
      rw [write, assemblySlots, none]
      rfl
    rw [held, holders_setStreamIn_assembly]
    exact List.Subperm.refl _

theorem held_assembly {x : WriteStream} {a : Assembly} (write : s.streams[n] = .write x) (assembly : x.assembly = some a) :
    holders (vital s) (.assembly n) = [a.slot] ∧ ownerOf (vital s) a.slot = .assembly n := by
  have held : holders (vital s) (.assembly n) = [a.slot] := by
    change assemblySlots s.streams[n] = _
    rw [write, assemblySlots, assembly]
    rfl
  exact ⟨held, owner_of_holders lawful (held ▸ List.mem_cons_self)⟩

theorem moved_dropAssembly {x : WriteStream} {a : Assembly} {c : Stream} (write : s.streams[n] = .write x)
    (assembly : x.assembly = some a) (empty : StreamEmpty c) :
    Moved (vital s) (vital ((s.release a.slot).setStream n c)) p := by
  obtain ⟨held, before⟩ := held_assembly lawful write assembly
  have unread : readSlots c = readSlots (vital s).streams[n] := by
    change _ = readSlots s.streams[n]
    rw [write, readSlots_eq, empty.entries]
    rfl
  rw [vital_setStream, vital_release]
  refine moved_of_perm (a := .assembly n) (b := .free) nofun (ownerOf_ownIn (vital s) a.slot .free) before
    (fun o here _ => ?_) (fun _ => ?_) fun h => absurd rfl h
  · rw [holders_setStreamIn_gathering (v := ownIn _ _ _) unread here, holders_ownIn]
  · rw [holders_setStreamIn_assembly, empty.assembly, held]

omit lawful in
theorem slots_merge (q : PostQueue) (line : Nat) (mask : ByteMask) :
    (q.merge line mask).entries.map PostEntry.slot = q.entries.map PostEntry.slot := by
  simp only [PostQueue.merge, List.map_map]
  refine List.map_congr_left fun e _ => ?_
  simp only [Function.comp_apply]
  split <;> rfl

omit lawful in
/-- A post is accepted: its slot is FREE when it merges, and POST when it is a new entry (R76). -/
theorem moved_accepted {a : Owner} {line : Nat} {mask : ByteMask} (taken : s.acceptPost line mask k = some t)
    (before : ownerOf (vital s) k = a) (kind : a ≠ .free ∧ a ≠ .post) (owner : ∀ j, ownerOf w j = ownerOf (vital t) j)
    (others : ∀ o, o ≠ a → holders w o = holders (vital t) o) (gives : (k :: holders w a).Perm (holders (vital s) a)) :
    Moved (vital s) w p := by
  rcases acceptPost_cases taken with ⟨e, -, rfl⟩ | ⟨-, -, rfl⟩
  · have kept (o : Owner) : holders (vital (s.mergePost e line mask k)) o = holders (vital s) o := by
      rw [vital_mergePost]
      exact (holders_withEntries (v := withSlots (vital s) (s.mergePost e line mask k).pool.slots)
        (slots_merge s.post line mask) o).trans (holders_withSlots _ _ o)
    refine moved_of_perm (b := .free) kind.1 (fun j => ?_) before (fun o here _ => ?_) (fun _ => gives) fun h => absurd rfl h
    · rw [owner, owner_mergePost]
    · rw [others o here, kept]
  · have form : vital (s.appendPost line mask k) = withEntries (withSlots (vital s) (s.appendPost line mask k).pool.slots)
      (s.post.append line mask k).entries := vital_appendPost s line mask k
    refine moved_of_perm (b := .post) kind.2 (fun j => ?_) before (fun o here other => ?_) (fun _ => gives) fun _ => ?_
    · rw [owner, owner_appendPost]
    · rw [others o here, form, holders_withEntries_other _ _ other, holders_withSlots]
    · rw [others .post kind.2.symm, form]
      change ((s.post.append line mask k).entries.map PostEntry.slot).Perm (k :: s.post.entries.map PostEntry.slot)
      rw [PostQueue.append, List.map_append]
      exact List.perm_append_singleton _ _

theorem moved_postAssembly {x : WriteStream} {a : Assembly} {mask : ByteMask} {c : Stream} (write : s.streams[n] = .write x)
    (assembly : x.assembly = some a) (taken : s.acceptPost a.line mask a.slot = some t) (empty : StreamEmpty c) :
    Moved (vital s) (vital (t.setStream n c)) p := by
  obtain ⟨held, before⟩ := held_assembly lawful write assembly
  have unread : readSlots c = readSlots (vital t).streams[n] := by
    change _ = readSlots t.streams[n]
    rw [streams_acceptPost taken, write, readSlots_eq, empty.entries]
    rfl
  rw [vital_setStream]
  refine moved_accepted taken before ⟨nofun, nofun⟩ (fun _ => rfl)
    (fun o here => holders_setStreamIn_gathering (v := vital t) unread here) ?_
  rw [holders_setStreamIn_assembly, empty.assembly, held]

theorem held_dest {d : DestLine} (dest : s.engine.dest = some d) :
    holders (vital s) .jobDest = [d.slot] ∧ ownerOf (vital s) d.slot = .jobDest := by
  have held : holders (vital s) .jobDest = [d.slot] := by
    change (s.engine.dest.map DestLine.slot).toList = _
    rw [dest]
    rfl
  exact ⟨held, owner_of_holders lawful (held ▸ List.mem_cons_self)⟩

theorem moved_postDest {d : DestLine} {line : Nat} {mask : ByteMask} {e : Engine} (dest : s.engine.dest = some d)
    (taken : s.acceptPost line mask d.slot = some t) (turns : EngineTurns { s.engine with dest := none } e) :
    Moved (vital s) (vital (t.withEngine e)) p := by
  obtain ⟨held, before⟩ := held_dest lawful dest
  have engine : (vital t).engine = s.engine := engine_acceptPost taken
  rw [vital_withEngine]
  refine moved_accepted taken before ⟨nofun, nofun⟩ (fun _ => rfl)
    (fun o here => holders_withEngineIn (fun k _ => ?_) fun h => absurd h here) ?_
  · rw [engine]
    exact turns.buffers k
  · have none : holders (withEngineIn (vital t) e) .jobDest = [] := congrArg Option.toList turns.dest
    rw [none, held]

theorem moved_dropBuffer {i : Fin 2} {x : SourceBuffer} (buffer : s.engine.buffers[i] = some x) :
    Moved (vital s) (vital ((s.release x.slot).withEngine { s.engine with buffers := s.engine.buffers.set i.val none })) p := by
  have held : holders (vital s) (.jobSource i) = [x.slot] := by
    change (s.engine.buffers[i].map SourceBuffer.slot).toList = _
    rw [buffer]
    rfl
  have before := owner_of_holders lawful (k := x.slot) (held ▸ List.mem_cons_self)
  rw [vital_withEngine, vital_release]
  refine moved_of_perm (a := .jobSource i) (b := .free) nofun (ownerOf_ownIn (vital s) x.slot .free) before
    (fun o here _ => ?_) (fun _ => ?_) fun h => absurd rfl h
  · exact (holders_setBuffer (v := ownIn (vital s) x.slot .free) here).trans (holders_ownIn _ _ _ o)
  · have none : holders (withEngineIn (ownIn (vital s) x.slot .free)
        { s.engine with buffers := s.engine.buffers.set i.val none }) (.jobSource i) = [] := by
      change (((s.engine.buffers.set i.val none)[i]).map SourceBuffer.slot).toList = []
      rw [getElem_set_buffer, if_pos rfl]
      rfl
    rw [none, held]

theorem moved_dropDest {d : DestLine} (dest : s.engine.dest = some d) :
    Moved (vital s) (vital ((s.release d.slot).withEngine { s.engine with dest := none })) p := by
  obtain ⟨held, before⟩ := held_dest lawful dest
  rw [vital_withEngine, vital_release]
  refine moved_of_perm (a := .jobDest) (b := .free) nofun (ownerOf_ownIn (vital s) d.slot .free) before
    (fun o here _ => ?_) (fun _ => ?_) fun h => absurd rfl h
  · exact (holders_setDest (v := ownIn (vital s) d.slot .free) here).trans (holders_ownIn _ _ _ o)
  · rw [held]
    exact List.Perm.refl _

omit lawful in
theorem moved_takeSource {c : Fin 9} {i : Fin 2} (none : s.engine.buffers[i] = none) (free : s.pool.slots[k].owner = .free) :
    Moved (vital s) (vital (((unclaimed s c).own k (.jobSource i)).withEngine { s.engine with
      buffers := s.engine.buffers.set i.val (some { slot := k, line := .none, state := .empty }) })) p := by
  rw [vital_withEngine, vital_own, vital_unclaimed]
  refine moved_of_perm (a := .free) (b := .jobSource i) nofun
    (ownerOf_ownIn (withClaims (vital s) (s.pool.claims.set c.val Option.none)) k _) free
    (fun o _ here => ?_) (fun h => absurd rfl h) fun _ => ?_
  · exact (holders_setBuffer (v := ownIn (withClaims (vital s) (s.pool.claims.set c.val Option.none)) k _) here).trans
      ((holders_ownIn _ _ _ o).trans (holders_withClaims _ _ o))
  · have before : holders (vital s) (.jobSource i) = [] := by
      change (s.engine.buffers[i].map SourceBuffer.slot).toList = _
      rw [none]
      rfl
    rw [before]
    change ((((s.engine.buffers.set i.val (some { slot := k, line := .none, state := .empty }))[i]).map
      SourceBuffer.slot).toList).Perm [k]
    rw [getElem_set_buffer, if_pos rfl]
    exact List.Perm.refl _

omit lawful in
theorem moved_takeDest {c : Fin 9} {d : DestLine} (free : s.pool.slots[d.slot].owner = .free)
    (none : p → s.engine.dest = none) :
    Moved (vital s) (vital (((unclaimed s c).own d.slot .jobDest).withEngine { s.engine with dest := some d })) p := by
  rw [vital_withEngine, vital_own, vital_unclaimed]
  have now : holders (withEngineIn (ownIn (withClaims (vital s) (s.pool.claims.set c.val .none)) d.slot .jobDest)
      { s.engine with dest := some d }) .jobDest = [d.slot] := rfl
  refine moved_of_subperm (a := .free) (b := .jobDest) nofun
    (ownerOf_ownIn (withClaims (vital s) (s.pool.claims.set c.val .none)) d.slot _) free
    (fun o _ here => ?_) (fun h => absurd rfl h) (fun _ => ?_) fun h _ => ?_
  · exact (holders_setDest (v := ownIn (withClaims (vital s) (s.pool.claims.set c.val .none)) d.slot _) here).trans
      ((holders_ownIn _ _ _ o).trans (holders_withClaims _ _ o))
  · rw [now]
    exact (List.subperm_cons d.slot).mpr List.nil_subperm
  · have before : holders (vital s) .jobDest = [] := by
      change (s.engine.dest.map DestLine.slot).toList = _
      rw [none h]
      rfl
    rw [now, before]

omit lawful in
/-- The entries that do not store from a slot hold the slots but that one. -/
theorem slots_removeStored {q : PostQueue} {e : PostEntry} (apart : (q.entries.map PostEntry.slot).Nodup) (mem : e ∈ q.entries)
    (retiring : e.state = .retiring) :
    (e.slot :: (q.removeStored e.slot).entries.map PostEntry.slot).Perm (q.entries.map PostEntry.slot) := by
  have rest : ((q.removeStored e.slot).entries.map PostEntry.slot).Sublist (q.entries.map PostEntry.slot) :=
    List.filter_sublist.map _
  have fresh : e.slot ∉ (q.removeStored e.slot).entries.map PostEntry.slot := fun held => by
    obtain ⟨x, kept, same⟩ := List.mem_map.mp held
    obtain ⟨hx, notStored⟩ := List.mem_filter.mp kept
    obtain rfl := List.inj_on_of_nodup_map apart hx mem same
    simp [PostEntry.storesFrom, retiring] at notStored
  refine (List.perm_ext_iff_of_nodup (List.nodup_cons.mpr ⟨fresh, apart.sublist rest⟩) apart).mpr fun k => ?_
  rw [List.mem_cons]
  constructor
  · rintro (rfl | held)
    · exact List.mem_map_of_mem mem
    · exact rest.subset held
  · intro held
    obtain ⟨x, hx, rfl⟩ := List.mem_map.mp held
    by_cases stored : x.storesFrom e.slot = true
    · exact .inl (storesFrom_iff.mp stored).1
    · exact .inr (List.mem_map_of_mem (List.mem_filter.mpr ⟨hx, by simpa using stored⟩))

omit lawful in
theorem vital_stored (s : State) (b : BankId) (x : OwnerRecord) :
    vital (((s.store x).removeStored x.slot).releaseBank b) = withBanks
      (ownIn (withEntries (vital (s.store x)) (s.post.removeStored x.slot).entries) x.slot .free)
      fun c => if c = b then (.opened, none) else (vital s).banks c := vital_releaseBank _ b

/-- A store completes, and its entry leaves the queue (R79). -/
theorem moved_store {b : BankId} {x : OwnerRecord} (operations : OperationsLawful s)
    (owner : s.seq.banks[b].owner = some x) (op : x.op = .store) :
    Moved (vital s) (vital (((s.store x).removeStored x.slot).releaseBank b)) p := by
  obtain ⟨e, mem, retiring, -, slot, -⟩ := operations.storeServed b x owner op
  have held : x.slot ∈ holders (vital s) .post := slot ▸ List.mem_map_of_mem mem
  have unmarked : discardSlot ((vital s).banks b).2 = none := by
    change discardSlot s.seq.banks[b].owner = none
    rw [owner]
    simp [discardSlot, op]
  have kept (o : Owner) : holders (vital (s.store x)) o = holders (vital s) o := by cases o <;> rfl
  have gone (c : BankId) : discardSlot (if c = b then (BankState.opened, none) else (vital s).banks c).2 =
      discardSlot ((vital s).banks c).2 := by
    split
    · next here => rw [here, unmarked]; rfl
    · rfl
  rw [vital_stored]
  refine moved_of_perm (a := .post) (b := .free) nofun (ownerOf_ownIn (vital s) x.slot .free)
    (owner_of_holders lawful held) (fun o here _ => ?_) (fun _ => ?_) fun h => absurd rfl h
  · rw [holders_withBanks (v := ownIn _ _ _) gone, holders_ownIn, holders_withEntries_other _ _ here, kept]
  · rw [holders_withBanks (v := ownIn _ _ _) gone, holders_ownIn]
    exact slot ▸ slots_removeStored ((heldIsOwned_iff.mp lawful).2 .post) mem retiring

end

/-! ### Every change -/

/-- A change leaves every slot with its holder, or one slot passes; entry to RESETTING and the rise of /RESET aside. -/
theorem moved_change (h : Change s t) (lawful : HeldIsOwned (vital s)) (operations : OperationsLawful s) :
    Moved (vital s) (vital t) ((∀ n : StreamId, WaitsEmpty s.streams[n]) ∧ DestClaims (vital s)) ∨
      t = s.enterResetting ∨ t = s.rise := by
  have weaken {p q : Prop} (imp : q → p) (moved : Moved (vital s) (vital t) p) : Moved (vital s) (vital t) q := by
    obtain ⟨k, a, b, pass, fully⟩ := moved
    exact ⟨k, a, b, pass, fun hq => fully (imp hq)⟩
  cases h with
  | aside h => exact .inl (moved_aside h)
  | tagAll =>
    refine .inl (moved_of_eq (fun _ => rfl) fun o => ?_)
    rw [vital_withPost]
    refine holders_withEntries ?_ o
    rw [PostQueue.tagAll, List.map_map]
    rfl
  | stream _ turns => exact .inl (weaken And.left (moved_stream turns))
  | letGo read queue => exact .inl (moved_letGo lawful operations read queue)
  | append read _ free => exact .inl (moved_append read free)
  | gather write empty free => exact .inl (weaken And.left (moved_gather write empty free))
  | dropAssembly write assembly empty => exact .inl (moved_dropAssembly lawful write assembly empty)
  | @fill o k l =>
    refine .inl (moved_of_eq (fun j => owner_fillSlot s k l j) fun o => ?_)
    rw [vital_fillSlot, holders_withSlots]
  | postAssembly write assembly taken empty => exact .inl (moved_postAssembly lawful write assembly taken empty)
  | postDest dest _ taken turns => exact .inl (moved_postDest lawful dest taken turns)
  | engine _ turns => exact .inl (moved_engine turns)
  | dropBuffer buffer => exact .inl (moved_dropBuffer lawful buffer)
  | dropDest dest => exact .inl (moved_dropDest lawful dest)
  | @takeSource c x i k claim purpose free =>
    exact .inl (moved_takeSource (operations.sourceClaimed c x i claim purpose).2 free)
  | @takeDest c x d claim purpose free => exact .inl (moved_takeDest free fun h => (h.2 c x claim purpose).2)
  | claims =>
    refine .inl (moved_of_eq (fun _ => rfl) fun o => ?_)
    exact holders_withClaims (vital s) s.claimList o
  | unclaim c =>
    refine .inl (moved_of_eq (fun _ => rfl) fun o => ?_)
    rw [vital_unclaimed, holders_withClaims]
  | @grant x q presented eligible =>
    exact .inl (moved_grant ((Grants.eligible_iff s q).mp eligible).1 (vital_grantRequest presented))
  | returnDiscarded _ owner op marked => exact .inl (moved_returnDiscarded owner op marked lawful)
  | returnEntry _ owner _ kept _ read => exact .inl (moved_returnEntry owner kept read)
  | returnBuffer _ owner _ kept => exact .inl (moved_returnBuffer owner kept)
  | returnLost _ owner _ kept => exact .inl (moved_returnLost owner kept)
  | store _ owner op => exact .inl (moved_store lawful operations owner op)
  | enterResetting => exact .inr (.inl rfl)
  | fall =>
    obtain ⟨m, d, frame⟩ := fall_frame s
    rw [frame]
    exact .inl (moved_of_eq (fun _ => rfl) fun o => by cases o <;> rfl)
  | rise => exact .inr (.inr rfl)

/-! ### Entry to RESETTING (R32) -/

section
variable (slots : SlotsLawful s) (operations : OperationsLawful s)
include slots operations

/-- What a fetch that is not discarded lands in is held by a stream's queue or a source buffer. -/
theorem live_holder {b : BankId} {x : OwnerRecord} (owner : s.seq.banks[b].owner = some x) (op : x.op = .fetch)
    (kept : x.discard = false) :
    (∃ (n : StreamId) (r : ReadStream) (e : ReadEntry), ownerOf (vital s) x.slot = .read n ∧ s.streams[n] = .read r ∧
      e ∈ r.queue ∧ e.slot = x.slot ∧ e.line = x.line) ∨
    ∃ (i : Fin 2) (y : SourceBuffer), ownerOf (vital s) x.slot = .jobSource i ∧ s.engine.buffers[i] = some y ∧
      y.line = some x.line := by
  rcases operations.fetchServed b x owner op kept with ⟨n, r, -, read, e, mem, slot, line, -⟩ | ⟨-, i, y, buffer, slot, line, -⟩
  · exact .inl ⟨n, r, e, slot ▸ slots.readOwned n r e read mem, read, mem, slot, line⟩
  · exact .inr ⟨i, y, slot ▸ slots.sourceOwned i y buffer, buffer, line⟩

theorem live_owner {b : BankId} {x : OwnerRecord} (owner : s.seq.banks[b].owner = some x) (op : x.op = .fetch)
    (kept : x.discard = false) : ownerOf (vital s) x.slot ≠ .discard ∧ ownerOf (vital s) x.slot ≠ .post := by
  rcases live_holder slots operations owner op kept with ⟨n, -, -, kind, -⟩ | ⟨i, -, kind, -⟩
  all_goals
    rw [kind]
    exact ⟨nofun, nofun⟩

/-- Two fetches of requesters that land in one slot are for one line. -/
theorem live_line {b c : BankId} {x y : OwnerRecord} (ownerB : s.seq.banks[b].owner = some x)
    (ownerC : s.seq.banks[c].owner = some y) (opB : x.op = .fetch) (opC : y.op = .fetch) (keptB : x.discard = false)
    (keptC : y.discard = false) (same : x.slot = y.slot) : x.line = y.line := by
  rcases live_holder slots operations ownerB opB keptB with ⟨n, r, e, kind, read, mem, slot, line⟩ | ⟨i, z, kind, buffer, line⟩ <;>
    rcases live_holder slots operations ownerC opC keptC with
      ⟨n', r', e', kind', read', mem', slot', line'⟩ | ⟨i', z', kind', buffer', line'⟩ <;>
    rw [← same, kind] at kind' <;> cases kind'
  · cases read.symm.trans read'
    have one := List.inj_on_of_nodup_map (slots.readApart n r read) mem mem' (slot.trans (same.trans slot'.symm))
    rw [← line, ← line', one]
  · cases buffer.symm.trans buffer'
    exact Option.some.inj (line.symm.trans line')

/-- Two fetches that land in one slot are one. -/
theorem fetch_apart {b c : BankId} {x y : OwnerRecord} (ownerB : s.seq.banks[b].owner = some x)
    (ownerC : s.seq.banks[c].owner = some y) (opB : x.op = .fetch) (opC : y.op = .fetch) (same : x.slot = y.slot) : b = c := by
  have marked {d : BankId} {z : OwnerRecord} (owner : s.seq.banks[d].owner = some z) (op : z.op = .fetch)
      (mark : z.discard = true) : ownerOf (vital s) z.slot = .discard := slots.discardOwned d z owner op mark
  cases markB : x.discard <;> cases markC : y.discard
  · rw [← operations.ownBank b x ownerB, ← operations.ownBank c y ownerC,
      live_line slots operations ownerB ownerC opB opC markB markC same]
  · exact absurd (same ▸ marked ownerC opC markC) (live_owner slots operations ownerB opB markB).1
  · exact absurd (same ▸ marked ownerB opB markB) (live_owner slots operations ownerC opC markC).1
  · exact slots.discardApart b c x y ownerB ownerC opB opC markB markC same

omit slots operations in
theorem markedAtReset_eq_some {x : Option OwnerRecord} {y : OwnerRecord} (h : markedAtReset x = some y) :
    ∃ z : OwnerRecord, x = some z ∧ (z.op = .fetch ∧ y = { z with discard := true } ∨ z.op ≠ .fetch ∧ y = z) := by
  obtain ⟨z, owner, same⟩ := Option.map_eq_some_iff.mp h
  refine ⟨z, owner, ?_⟩
  split at same
  · next fetch => exact .inl ⟨fetch, same.symm⟩
  · next other => exact .inr ⟨other, same.symm⟩

omit slots operations in
/-- A discarded fetch at entry to RESETTING was a fetch. -/
theorem fetch_of_marked {x : Option OwnerRecord} (h : discardSlot (markedAtReset x) = some k) :
    ∃ z : OwnerRecord, x = some z ∧ z.op = .fetch ∧ z.slot = k := by
  obtain ⟨y, marked, op, -, slot⟩ := discardSlot_eq_some.mp h
  obtain ⟨z, owner, ⟨fetch, rfl⟩ | ⟨other, rfl⟩⟩ := markedAtReset_eq_some marked
  · exact ⟨z, owner, fetch, slot⟩
  · exact absurd op other

omit slots operations in
theorem mem_discards_reset : k ∈ holders (vital s.enterResetting) .discard ↔
    ∃ (b : BankId) (x : OwnerRecord), s.seq.banks[b].owner = some x ∧ x.op = .fetch ∧ x.slot = k := by
  rw [mem_discards, vital_enterResetting]
  refine exists_congr fun b => ⟨?_, ?_⟩
  · rintro ⟨y, marked⟩
    exact fetch_of_marked (discardSlot_eq_some.mpr ⟨y, marked⟩)
  · rintro ⟨x, owner, op, slot⟩
    have marked : markedAtReset s.seq.banks[b].owner = some { x with discard := true } := by
      rw [owner, markedAtReset, Option.map_some, if_pos op]
    exact ⟨_, marked, op, rfl, slot⟩

omit slots operations in
theorem mem_posts_reset : k ∈ holders (vital s.enterResetting) .post ↔
    ∃ e ∈ s.post.entries, e.slot = k ∧ e.state = .retiring := by
  rw [vital_enterResetting]
  change k ∈ s.post.softReset.entries.map PostEntry.slot ↔ _
  simp [PostQueue.softReset, and_assoc, and_comm (a := _ = k)]

omit slots operations in
theorem ownerOf_reset (s : State) (k : SlotId) : ownerOf (vital s.enterResetting) k = s.resetOwner k := by
  rw [vital_enterResetting]
  exact Control.resetPool_owner s k

omit slots operations in
/-- The streams and the Move Engine hold nothing at entry to RESETTING. -/
theorem holders_reset (s : State) (discard : o ≠ .discard) (post : o ≠ .post) : holders (vital s.enterResetting) o = [] := by
  rw [vital_enterResetting]
  cases o with
  | discard => exact absurd rfl discard
  | post => exact absurd rfl post
  | read n => simp [holders, readSlots]
  | assembly n => simp [holders, assemblySlots]
  | jobSource i => simp [holders, Engine.reset]
  | jobDest => rfl
  | free => rfl

theorem owned_reset (held : k ∈ holders (vital s.enterResetting) o) : ownerOf (vital s.enterResetting) k = o := by
  rw [ownerOf_reset]
  by_cases discard : o = .discard
  · subst discard
    obtain ⟨b, x, owner, op, slot⟩ := mem_discards_reset.mp held
    rcases Control.resetOwner_cases s k with ⟨-, kind⟩ | ⟨none, -⟩
    · exact kind
    · exact absurd ⟨b, x, owner, op, slot⟩ none
  · by_cases post : o = .post
    · subst post
      obtain ⟨e, mem, slot, retiring⟩ := mem_posts_reset.mp held
      rcases Control.resetOwner_cases s k with ⟨⟨b, x, owner, op, slot'⟩, -⟩ | ⟨-, ⟨-, kind⟩ | ⟨none, -⟩⟩
      · have posted : ownerOf (vital s) x.slot = .post := (slot.trans slot'.symm) ▸ slots.postOwned e mem
        cases mark : x.discard with
        | false => exact absurd posted (live_owner slots operations owner op mark).2
        | true =>
          have marked : ownerOf (vital s) x.slot = .discard := slots.discardOwned b x owner op mark
          cases posted.symm.trans marked
      · exact kind
      · exact absurd ⟨e, mem, slot, retiring⟩ none
    · rw [holders_reset s discard post] at held
      cases held

theorem apart_reset (o : Owner) : (holders (vital s.enterResetting) o).Nodup := by
  by_cases discard : o = .discard
  · subst discard
    rw [vital_enterResetting]
    refine (List.nodup_finRange 4).filterMap fun b c k hb hc => ?_
    obtain ⟨x, ownerB, opB, slotB⟩ := fetch_of_marked hb
    obtain ⟨y, ownerC, opC, slotC⟩ := fetch_of_marked hc
    exact fetch_apart slots operations ownerB ownerC opB opC (slotB.trans slotC.symm)
  · by_cases post : o = .post
    · subst post
      rw [vital_enterResetting]
      change (s.post.softReset.entries.map PostEntry.slot).Nodup
      rw [PostQueue.softReset, List.map_map]
      exact slots.postApart.sublist (List.filter_sublist.map _)
    · rw [holders_reset s discard post]
      exact List.nodup_nil

theorem heldIsOwned_reset : HeldIsOwned (vital s.enterResetting) :=
  heldIsOwned_iff.mpr ⟨fun _ _ => owned_reset slots operations, apart_reset slots operations⟩

omit slots operations in
theorem ownedIsHeld_reset : OwnedIsHeld (vital s.enterResetting) := by
  refine ownedIsHeld_iff.mpr fun k o kind owned => ?_
  rw [ownerOf_reset] at owned
  rcases Control.resetOwner_cases s k with ⟨fetched, is⟩ | ⟨-, ⟨stored, is⟩ | ⟨-, is⟩⟩ <;> rw [is] at owned <;> subst owned
  · exact mem_discards_reset.mpr fetched
  · exact mem_posts_reset.mpr stored
  · exact absurd rfl kind

end

end Sys2Proof.Proofs.SlotChanges

/-! PROOFS. What is under way as a list of tasks, each with the bank that works on it (R41, R79, R92, R145); a grant
begins a task, a return or a store's completion ends one. -/

namespace Sys2Proof.Proofs.Tasks

open Sys2Proof Sys2Proof.Machine Sys2Proof.Safety Sys2Proof.Laws
open Sys2Proof.Proofs.LinePool Sys2Proof.Proofs.Coherence Sys2Proof.Proofs.Changes Sys2Proof.Proofs.StreamChanges
open Sys2Proof.Proofs.BankChanges Sys2Proof.Proofs.BankLaws Sys2Proof.Proofs.QueueLaws Sys2Proof.Proofs.SlotMoves
open Sys2Proof.Proofs.ActionChanges Sys2Proof.Proofs.PinReset Sys2Proof.Proofs.StepChanges Sys2Proof.Proofs.SlotChanges

variable {s t : State} {v w : Vital} {n : StreamId} {k : SlotId} {b : BankId} {o : OwnerRecord}

/-! ### Tasks -/

/-- Something that a bank is to work on: an entry or a source buffer IN_FLIGHT, or a post RETIRING. -/
inductive Task where
  | entry (n : StreamId) (line : Nat) (slot : SlotId)
  | buffer (k : Fin 2) (line : Option Nat) (slot : SlotId)
  | retire (line : Nat) (slot : SlotId) (mask : ByteMask)

/-- The bank of a task. -/
def Task.bank : Task → BankId
  | .entry _ line _ => bankOf line
  | .buffer _ line _ => bankOf (line.getD 0)
  | .retire line _ _ => bankOf line

/-- A task stands in the state. -/
def Doing (v : Vital) : Task → Prop
  | .entry n line slot => ∃ e ∈ v.streams[n].entries, e.state = .inFlight ∧ e.line = line ∧ e.slot = slot
  | .buffer k line slot => ∃ x : SourceBuffer, v.engine.buffers[k] = some x ∧ x.state = .inFlight ∧ x.line = line ∧ x.slot = slot
  | .retire line slot mask => ∃ e ∈ v.entries, e.state = .retiring ∧ e.line = line ∧ e.slot = slot ∧ e.mask = mask

/-- An owner record is the one of a task. -/
def Serves (o : OwnerRecord) : Task → Prop
  | .entry n line slot => o.op = .fetch ∧ o.discard = false ∧ o.position.val = n.val ∧ o.line = line ∧ o.slot = slot
  | .buffer _ line slot => o.op = .fetch ∧ o.discard = false ∧ o.position.val = 9 ∧ line = some o.line ∧ o.slot = slot
  | .retire line slot mask => o.op = .store ∧ o.line = line ∧ o.slot = slot ∧ o.mask = mask

/-- An owner record that is not a discarded fetch's. -/
def Live (o : OwnerRecord) : Prop := o.op = .fetch → o.discard = false

theorem Serves.bank {T : Task} (h : Serves o T) : bankOf o.line = T.bank := by
  cases T with
  | entry n line slot =>
    obtain ⟨-, -, -, rfl, -⟩ := h
    rfl
  | buffer k line slot =>
    obtain ⟨-, -, -, rfl, -⟩ := h
    rfl
  | retire line slot mask =>
    obtain ⟨-, rfl, -⟩ := h
    rfl

theorem Serves.live {T : Task} (h : Serves o T) : Live o := by
  cases T with
  | entry => exact fun _ => h.2.1
  | buffer => exact fun _ => h.2.1
  | retire => exact fun fetch => by cases h.1.symm.trans fetch

/-- The owner records and the tasks agree. -/
structure WorkLawful (own : BankId → Option OwnerRecord) (doing : Task → Prop) : Prop where
  ownBank : ∀ b o, own b = some o → bankOf o.line = b
  served : ∀ b o, own b = some o → Live o → ∃ T, doing T ∧ Serves o T
  underWay : ∀ T, doing T → ∃ o, own T.bank = some o ∧ Serves o T

/-- The owner of each bank. -/
def ownersOf (v : Vital) (b : BankId) : Option OwnerRecord := (v.banks b).2

/-- One bank's owner, replaced. -/
def replaced (own : BankId → Option OwnerRecord) (b : BankId) (x : Option OwnerRecord) : BankId → Option OwnerRecord :=
  fun c => if c = b then x else own c

namespace WorkLawful

variable {own own' : BankId → Option OwnerRecord} {doing doing' : Task → Prop} (lawful : WorkLawful own doing)
include lawful

theorem congr (same : ∀ b, own' b = own b) (iff : ∀ T, doing' T ↔ doing T) : WorkLawful own' doing' where
  ownBank b o h := lawful.ownBank b o (same b ▸ h)
  served b o h live := by
    obtain ⟨T, doing, serves⟩ := lawful.served b o (same b ▸ h) live
    exact ⟨T, (iff T).mpr doing, serves⟩
  underWay T h := by
    obtain ⟨o, owner, serves⟩ := lawful.underWay T ((iff T).mp h)
    exact ⟨o, (same _).trans owner, serves⟩

/-- An unowned bank takes an owner, for a new task. -/
theorem begin {T : Task} (free : own b = none) (bank : bankOf o.line = b) (serves : Serves o T) :
    WorkLawful (replaced own b (some o)) fun U => doing U ∨ U = T where
  ownBank c p h := by
    unfold replaced at h
    split at h
    · next here =>
      cases h
      exact bank.trans here.symm
    · exact lawful.ownBank c p h
  served c p h live := by
    unfold replaced at h
    split at h
    · cases h
      exact ⟨T, .inr rfl, serves⟩
    · obtain ⟨U, doing, servesU⟩ := lawful.served c p h live
      exact ⟨U, .inl doing, servesU⟩
  underWay U h := by
    unfold replaced
    rcases h with doing | rfl
    · obtain ⟨p, owner, servesU⟩ := lawful.underWay U doing
      have other : U.bank ≠ b := fun here => by
        rw [here, free] at owner
        cases owner
      exact ⟨p, (if_neg other).trans owner, servesU⟩
    · exact ⟨o, if_pos (serves.bank.symm.trans bank), serves⟩

/-- A live owner's task ends: the bank is released, or its fetch discarded. -/
theorem finish {x : Option OwnerRecord} (owner : own b = some o)
    (after : ∀ p, x = some p → bankOf p.line = b ∧ ¬ Live p) :
    WorkLawful (replaced own b x) fun U => doing U ∧ ¬ Serves o U where
  ownBank c p h := by
    unfold replaced at h
    split at h
    · next here => exact (after p h).1.trans here.symm
    · exact lawful.ownBank c p h
  served c p h live := by
    unfold replaced at h
    split at h
    · exact absurd live (after p h).2
    · next other =>
      obtain ⟨U, doing, serves⟩ := lawful.served c p h live
      refine ⟨U, ⟨doing, fun also => other ?_⟩, serves⟩
      rw [← lawful.ownBank c p h, ← lawful.ownBank b o owner, serves.bank, also.bank]
  underWay U h := by
    obtain ⟨p, ownerU, serves⟩ := lawful.underWay U h.1
    have other : U.bank ≠ b := fun here => by
      rw [here, owner] at ownerU
      cases ownerU
      exact h.2 serves
    exact ⟨p, (if_neg other).trans ownerU, serves⟩

/-- A bank whose fetch is discarded is released. -/
theorem drop (owner : own b = some o) (discarded : ¬ Live o) : WorkLawful (replaced own b none) doing := by
  refine (lawful.finish (x := none) owner fun _ h => by cases h).congr (fun _ => rfl) fun U => ⟨fun doing => ⟨doing, fun serves => discarded serves.live⟩, And.left⟩

end WorkLawful

/-! ### The laws of the operations as laws of the tasks -/

/-- A bank that writes or recovers does so for a store (R102). -/
def StoresOwned (v : Vital) : Prop := ∀ b, (v.banks b).1 = .writing ∨ (v.banks b).1 = .recovering →
  ∃ o : OwnerRecord, (v.banks b).2 = some o ∧ o.op = .store

/-- A claim for a source buffer is the Move Engine's, for a buffer that it does not hold (R144). -/
def SourceClaims (v : Vital) : Prop := ∀ (c : Fin 9) (x : Claim) (k : Fin 2), v.claims[c] = some x →
  x.purpose = .jobSource k → c = 8 ∧ v.engine.buffers[k] = none

theorem serves_of_fetchServes (op : o.op = .fetch) (kept : o.discard = false) :
    FetchServes s o ↔ ∃ T, Doing (vital s) T ∧ Serves o T := by
  constructor
  · rintro (⟨n, r, position, read, e, mem, slot, line, state⟩ | ⟨position, k, x, buffer, slot, line, state⟩)
    · exact ⟨.entry n o.line o.slot, ⟨e, mem_entries.mpr ⟨r, read, mem⟩, state, line, slot⟩, op, kept, position, rfl, rfl⟩
    · exact ⟨.buffer k (some o.line) o.slot, ⟨x, buffer, state, line, slot⟩, op, kept, position, rfl, rfl⟩
  · rintro ⟨T, doing, serves⟩
    cases T with
    | entry n line slot =>
      obtain ⟨e, mem, state, line, slot⟩ := doing
      obtain ⟨-, -, position, line', slot'⟩ := serves
      obtain ⟨r, read, mem⟩ := mem_entries.mp mem
      exact .inl ⟨n, r, position, read, e, mem, slot.trans slot'.symm, line.trans line'.symm, state⟩
    | buffer k line slot =>
      obtain ⟨x, buffer, state, line, slot⟩ := doing
      obtain ⟨-, -, position, line', slot'⟩ := serves
      exact .inr ⟨position, k, x, buffer, slot.trans slot'.symm, line.trans line', state⟩
    | retire => cases op.symm.trans serves.1

theorem operationsLawful_iff (s : State) : OperationsLawful s ↔
    WorkLawful (ownersOf (vital s)) (Doing (vital s)) ∧ StoresOwned (vital s) ∧ SourceClaims (vital s) := by
  constructor
  · intro h
    refine ⟨⟨h.ownBank, fun b o owner live => ?_, fun T doing => ?_⟩, h.writingStores, h.sourceClaimed⟩
    · cases op : o.op with
      | fetch => exact (serves_of_fetchServes op (live op)).mp (h.fetchServed b o owner op (live op))
      | store =>
        obtain ⟨e, mem, state, line, slot, mask⟩ := h.storeServed b o owner op
        exact ⟨.retire o.line o.slot o.mask, ⟨e, mem, state, line, slot, mask⟩, op, rfl, rfl, rfl⟩
    · cases T with
      | entry n line slot =>
        obtain ⟨e, mem, state, rfl, rfl⟩ := doing
        obtain ⟨r, read, mem⟩ := mem_entries.mp mem
        exact h.entryUnderWay n r e read mem state
      | buffer k line slot =>
        obtain ⟨x, buffer, state, rfl, rfl⟩ := doing
        obtain ⟨line, named, o, owner, op, kept, position, rfl, slot⟩ := h.bufferUnderWay k x buffer state
        rw [named]
        exact ⟨o, owner, op, kept, position, rfl, slot⟩
      | retire line slot mask =>
        obtain ⟨e, mem, state, rfl, rfl, rfl⟩ := doing
        exact h.retiringUnderWay e mem state
  · intro ⟨work, stores, claims⟩
    exact {
      ownBank := work.ownBank
      fetchServed := fun b o owner op kept =>
        (serves_of_fetchServes op kept).mpr (work.served b o owner fun _ => kept)
      storeServed := fun b o owner op => by
        obtain ⟨T, doing, serves⟩ := work.served b o owner fun fetch => by cases op.symm.trans fetch
        cases T with
        | entry => cases op.symm.trans serves.1
        | buffer => cases op.symm.trans serves.1
        | retire =>
          obtain ⟨e, mem, state, line, slot, mask⟩ := doing
          obtain ⟨-, line', slot', mask'⟩ := serves
          exact ⟨e, mem, state, line.trans line'.symm, slot.trans slot'.symm, mask.trans mask'.symm⟩
      entryUnderWay := fun n r e read mem state =>
        work.underWay (.entry n e.line e.slot) ⟨e, mem_entries.mpr ⟨r, read, mem⟩, state, rfl, rfl⟩
      bufferUnderWay := fun k x buffer state => by
        obtain ⟨o, owner, op, kept, position, named, slot⟩ :=
          work.underWay (.buffer k x.line x.slot) ⟨x, buffer, state, rfl, rfl⟩
        refine ⟨o.line, named, o, ?_, op, kept, position, rfl, slot⟩
        rwa [Task.bank, named] at owner
      retiringUnderWay := fun e mem state => work.underWay (.retire e.line e.slot e.mask) ⟨e, mem, state, rfl, rfl, rfl⟩
      writingStores := stores
      sourceClaimed := claims }

/-! ### Changes that leave what is under way -/

/-- A context has the same entries IN_FLIGHT. -/
def SameFlights (c d : Stream) : Prop := ∀ e : ReadEntry, e.state = .inFlight → (e ∈ d.entries ↔ e ∈ c.entries)

theorem doing_congr (streams : ∀ n : StreamId, SameFlights v.streams[n] w.streams[n])
    (buffers : ∀ (k : Fin 2) (x : SourceBuffer), x.state = .inFlight → (w.engine.buffers[k] = some x ↔ v.engine.buffers[k] = some x))
    (retires : ∀ line slot mask, Doing w (.retire line slot mask) ↔ Doing v (.retire line slot mask)) (T : Task) :
    Doing w T ↔ Doing v T := by
  cases T with
  | entry n line slot =>
    refine exists_congr fun e => ⟨fun ⟨mem, state, rest⟩ => ?_, fun ⟨mem, state, rest⟩ => ?_⟩
    · exact ⟨(streams n e state).mp mem, state, rest⟩
    · exact ⟨(streams n e state).mpr mem, state, rest⟩
  | buffer k line slot =>
    refine exists_congr fun x => ⟨fun ⟨buffer, state, rest⟩ => ?_, fun ⟨buffer, state, rest⟩ => ?_⟩
    · exact ⟨(buffers k x state).mp buffer, state, rest⟩
    · exact ⟨(buffers k x state).mpr buffer, state, rest⟩
  | retire line slot mask => exact retires line slot mask

theorem SameFlights.of_entries {c d : Stream} (h : d.entries = c.entries) : SameFlights c d := fun e _ => by rw [h]

theorem sameFlights_set {c : Stream} (h : SameFlights v.streams[n] c) (m : StreamId) :
    SameFlights v.streams[m] (setStreamIn v n c).streams[m] := by
  by_cases here : m = n
  · subst here
    simpa [setStreamIn] using h
  · have apart : n.val ≠ m.val := fun same => here (Fin.ext same.symm)
    exact SameFlights.of_entries (by simp [setStreamIn, apart])

/-- What is under way is the same, and so are the owners. -/
def SameWork (v w : Vital) : Prop := (∀ b, ownersOf w b = ownersOf v b) ∧ ∀ T, Doing w T ↔ Doing v T

/-- The work of a part is that of its owners, streams, buffers and posts alone. -/
theorem sameWork_of (owners : ∀ b, ownersOf w b = ownersOf v b) (streams : ∀ n : StreamId, SameFlights v.streams[n] w.streams[n])
    (buffers : ∀ (k : Fin 2) (x : SourceBuffer), x.state = .inFlight → (w.engine.buffers[k] = some x ↔ v.engine.buffers[k] = some x))
    (retires : ∀ line slot mask, Doing w (.retire line slot mask) ↔ Doing v (.retire line slot mask)) : SameWork v w :=
  ⟨owners, doing_congr streams buffers retires⟩

theorem sameFlights_refl (c : Stream) : SameFlights c c := fun _ _ => Iff.rfl

theorem sameWork_setStream {c : Stream} (h : SameFlights v.streams[n] c) : SameWork v (setStreamIn v n c) :=
  sameWork_of (fun _ => rfl) (sameFlights_set h) (fun _ _ _ => Iff.rfl) fun _ _ _ => Iff.rfl

theorem sameWork_withEngine {e : Engine}
    (h : ∀ (k : Fin 2) (x : SourceBuffer), x.state = .inFlight → (e.buffers[k] = some x ↔ v.engine.buffers[k] = some x)) :
    SameWork v (withEngineIn v e) :=
  sameWork_of (fun _ => rfl) (fun _ => sameFlights_refl _) h fun _ _ _ => Iff.rfl

theorem sameWork_withEntries {es : List PostEntry} (h : ∀ line slot mask,
    Doing (withEntries v es) (.retire line slot mask) ↔ Doing v (.retire line slot mask)) : SameWork v (withEntries v es) :=
  sameWork_of (fun _ => rfl) (fun _ => sameFlights_refl _) (fun _ _ _ => Iff.rfl) h

theorem SameWork.trans {x : Vital} (h : SameWork v w) (h' : SameWork w x) : SameWork v x :=
  ⟨fun b => (h'.1 b).trans (h.1 b), fun T => (h'.2 T).trans (h.2 T)⟩

theorem SameWork.lawful (h : SameWork v w) (lawful : WorkLawful (ownersOf v) (Doing v)) :
    WorkLawful (ownersOf w) (Doing w) := lawful.congr h.1 h.2

/-- The RETIRING entries of a list, changed one by one, none into or out of RETIRING. -/
theorem retires_map {f : PostEntry → PostEntry} {es : List PostEntry}
    (kept : ∀ e, (f e).state = e.state ∧ (e.state = .retiring → (f e).line = e.line ∧ (f e).slot = e.slot ∧ (f e).mask = e.mask))
    (line : Nat) (slot : SlotId) (mask : ByteMask) :
    Doing (withEntries v (es.map f)) (.retire line slot mask) ↔ Doing (withEntries v es) (.retire line slot mask) := by
  constructor
  · rintro ⟨e, changed, state, rfl, rfl, rfl⟩
    obtain ⟨x, mem, rfl⟩ := List.mem_map.mp changed
    obtain ⟨same, rest⟩ := kept x
    obtain ⟨line, slot, mask⟩ := rest (same ▸ state)
    exact ⟨x, mem, same ▸ state, line.symm, slot.symm, mask.symm⟩
  · rintro ⟨x, mem, state, rfl, rfl, rfl⟩
    obtain ⟨same, rest⟩ := kept x
    exact ⟨f x, List.mem_map_of_mem mem, same.trans state, rest state⟩

theorem retires_append {es : List PostEntry} {e : PostEntry} (waiting : e.state = .waiting) (line : Nat) (slot : SlotId)
    (mask : ByteMask) :
    Doing (withEntries v (es ++ [e])) (.retire line slot mask) ↔ Doing (withEntries v es) (.retire line slot mask) := by
  refine exists_congr fun x => and_congr_left fun ⟨state, _⟩ => ?_
  change x ∈ es ++ [e] ↔ x ∈ es
  rw [List.mem_append, List.mem_singleton, or_iff_left]
  rintro rfl
  cases state.symm.trans waiting

theorem sameWork_acceptPost {line : Nat} {mask : ByteMask} (taken : s.acceptPost line mask k = some t) :
    SameWork (vital s) (vital t) := by
  rcases acceptPost_cases taken with ⟨e, -, rfl⟩ | ⟨-, -, rfl⟩
  · have form : vital (s.mergePost e line mask k) = withEntries (withSlots (vital s) (s.mergePost e line mask k).pool.slots)
      (s.post.merge line mask).entries := vital_mergePost s e line mask k
    rw [form]
    refine sameWork_withEntries (v := withSlots (vital s) _) fun l j m => ?_
    refine retires_map (v := withSlots (vital s) _) (es := s.post.entries) (fun x => ?_) l j m
    split
    · next waits =>
      refine ⟨rfl, fun retiring => ?_⟩
      simp [PostEntry.waitsFor, retiring] at waits
    · exact ⟨rfl, fun _ => ⟨rfl, rfl, rfl⟩⟩
  · have form : vital (s.appendPost line mask k) = withEntries (withSlots (vital s) (s.appendPost line mask k).pool.slots)
      (s.post.append line mask k).entries := vital_appendPost s line mask k
    rw [form]
    exact sameWork_withEntries (v := withSlots (vital s) _) (retires_append (v := withSlots (vital s) _) rfl)

theorem sameFlights_landed {c d : Stream} (hc : c.entries = []) (hd : d.entries = []) : SameFlights c d :=
  .of_entries (hd.trans hc.symm)

theorem entries_write {x : WriteStream} (write : s.streams[n] = .write x) : (vital s).streams[n].entries = [] := by
  change s.streams[n].entries = []
  rw [write]
  rfl

theorem entries_read {r : ReadStream} (read : s.streams[n] = .read r) : (vital s).streams[n].entries = r.queue := by
  change s.streams[n].entries = r.queue
  rw [read]
  rfl

/-! ### A task ends or begins -/

theorem doing_entry_congr {line : Nat} (h : w.streams[n] = v.streams[n]) :
    Doing w (.entry n line k) ↔ Doing v (.entry n line k) := by
  unfold Doing
  exact exists_congr fun e => by rw [h]

theorem doing_buffer_congr {i : Fin 2} {line : Option Nat} (h : w.engine = v.engine) :
    Doing w (.buffer i line k) ↔ Doing v (.buffer i line k) := by
  unfold Doing
  exact exists_congr fun e => by rw [h]

theorem doing_retire_congr {line : Nat} {mask : ByteMask} (h : w.entries = v.entries) :
    Doing w (.retire line k mask) ↔ Doing v (.retire line k mask) := by
  unfold Doing
  exact exists_congr fun e => by rw [h]

/-- One stream's context is set, and no other's. -/
theorem setStreamIn_same (v : Vital) (n : StreamId) (c : Stream) : (setStreamIn v n c).streams[n] = c := by simp [setStreamIn]

theorem setStreamIn_others (v : Vital) (n : StreamId) (c : Stream) (m : StreamId) (other : m ≠ n) :
    (setStreamIn v n c).streams[m] = v.streams[m] := by
  have apart : n.val ≠ m.val := fun same => other (Fin.ext same.symm)
  simp [setStreamIn, apart]

/-- An entry's flight ends. -/
theorem doing_flight_ends (others : ∀ m : StreamId, m ≠ n → w.streams[m] = v.streams[m]) (engine : w.engine = v.engine)
    (entries : w.entries = v.entries) (op : o.op = .fetch) (kept : o.discard = false) (position : o.position.val = n.val)
    (ends : ∀ x : ReadEntry, x.state = .inFlight → (x ∈ w.streams[n].entries ↔ x ∈ v.streams[n].entries ∧ x.slot ≠ o.slot))
    (lines : ∀ x ∈ v.streams[n].entries, x.state = .inFlight → x.slot = o.slot → x.line = o.line) (T : Task) :
    Doing w T ↔ Doing v T ∧ ¬ Serves o T := by
  cases T with
  | entry m line slot =>
    by_cases here : m = n
    · subst here
      constructor
      · rintro ⟨x, mem, state, rfl, rfl⟩
        obtain ⟨old, other⟩ := (ends x state).mp mem
        exact ⟨⟨x, old, state, rfl, rfl⟩, fun ⟨_, _, _, _, slot⟩ => other slot.symm⟩
      · rintro ⟨⟨x, mem, state, rfl, rfl⟩, other⟩
        refine ⟨x, (ends x state).mpr ⟨mem, fun slot => other ?_⟩, state, rfl, rfl⟩
        exact ⟨op, kept, position, (lines x mem state slot).symm, slot.symm⟩
    · rw [doing_entry_congr (others m here), and_iff_left]
      rintro ⟨-, -, position', -⟩
      exact here (Fin.ext (position'.symm.trans position))
  | buffer m line slot =>
    rw [doing_buffer_congr engine, and_iff_left]
    rintro ⟨-, -, position', -⟩
    omega
  | retire line slot mask =>
    rw [doing_retire_congr entries, and_iff_left]
    rintro ⟨op', -⟩
    cases op.symm.trans op'

/-- A source buffer's flight ends. -/
theorem doing_buffer_lands (streams : w.streams = v.streams) (entries : w.entries = v.entries) (op : o.op = .fetch)
    (kept : o.discard = false) (position : o.position.val = 9)
    (lands : ∀ (i : Fin 2) (x : SourceBuffer), x.state = .inFlight →
      (w.engine.buffers[i] = some x ↔ v.engine.buffers[i] = some x ∧ x.slot ≠ o.slot))
    (lines : ∀ (i : Fin 2) (x : SourceBuffer), v.engine.buffers[i] = some x → x.state = .inFlight → x.slot = o.slot →
      x.line = some o.line) (T : Task) : Doing w T ↔ Doing v T ∧ ¬ Serves o T := by
  cases T with
  | entry m line slot =>
    rw [doing_entry_congr (congrArg (fun x : Vector Stream 8 => x[m]) streams), and_iff_left]
    rintro ⟨-, -, position', -⟩
    omega
  | buffer i line slot =>
    constructor
    · rintro ⟨x, buffer, state, rfl, rfl⟩
      obtain ⟨old, other⟩ := (lands i x state).mp buffer
      exact ⟨⟨x, old, state, rfl, rfl⟩, fun ⟨_, _, _, _, slot⟩ => other slot.symm⟩
    · rintro ⟨⟨x, buffer, state, rfl, rfl⟩, other⟩
      refine ⟨x, (lands i x state).mpr ⟨buffer, fun slot => other ?_⟩, state, rfl, rfl⟩
      exact ⟨op, kept, position, lines i x buffer state slot, slot.symm⟩
  | retire line slot mask =>
    rw [doing_retire_congr entries, and_iff_left]
    rintro ⟨op', -⟩
    cases op.symm.trans op'

/-- A post's store ends. -/
theorem doing_store_ends (streams : w.streams = v.streams) (engine : w.engine = v.engine) (op : o.op = .store)
    (ends : ∀ x : PostEntry, x.state = .retiring → (x ∈ w.entries ↔ x ∈ v.entries ∧ x.slot ≠ o.slot))
    (lines : ∀ x ∈ v.entries, x.state = .retiring → x.slot = o.slot → x.line = o.line ∧ x.mask = o.mask) (T : Task) :
    Doing w T ↔ Doing v T ∧ ¬ Serves o T := by
  cases T with
  | entry m line slot =>
    rw [doing_entry_congr (congrArg (fun x : Vector Stream 8 => x[m]) streams), and_iff_left]
    rintro ⟨op', -⟩
    cases op.symm.trans op'
  | buffer i line slot =>
    rw [doing_buffer_congr engine, and_iff_left]
    rintro ⟨op', -⟩
    cases op.symm.trans op'
  | retire line slot mask =>
    constructor
    · rintro ⟨x, mem, state, rfl, rfl, rfl⟩
      obtain ⟨old, other⟩ := (ends x state).mp mem
      exact ⟨⟨x, old, state, rfl, rfl, rfl⟩, fun ⟨_, _, slot, _⟩ => other slot.symm⟩
    · rintro ⟨⟨x, mem, state, rfl, rfl, rfl⟩, other⟩
      refine ⟨x, (ends x state).mpr ⟨mem, fun slot => other ?_⟩, state, rfl, rfl, rfl⟩
      obtain ⟨line, mask⟩ := lines x mem state slot
      exact ⟨op, line.symm, slot.symm, mask.symm⟩

/-- An entry's flight begins. -/
theorem doing_flight_begins {e : ReadEntry} (others : ∀ m : StreamId, m ≠ n → w.streams[m] = v.streams[m])
    (engine : w.engine = v.engine) (entries : w.entries = v.entries) (flying : e.state = .inFlight)
    (begins : ∀ x : ReadEntry, x.state = .inFlight → (x ∈ w.streams[n].entries ↔ x ∈ v.streams[n].entries ∨ x = e)) (T : Task) :
    Doing w T ↔ Doing v T ∨ T = .entry n e.line e.slot := by
  cases T with
  | entry m line slot =>
    by_cases here : m = n
    · subst here
      constructor
      · rintro ⟨x, mem, state, rfl, rfl⟩
        rcases (begins x state).mp mem with old | rfl
        · exact .inl ⟨x, old, state, rfl, rfl⟩
        · exact .inr rfl
      · rintro (⟨x, mem, state, rest⟩ | same)
        · exact ⟨x, (begins x state).mpr (.inl mem), state, rest⟩
        · cases same
          exact ⟨e, (begins e flying).mpr (.inr rfl), flying, rfl, rfl⟩
    · rw [doing_entry_congr (others m here), or_iff_left]
      intro same
      cases same
      exact here rfl
  | buffer m line slot =>
    rw [doing_buffer_congr engine, or_iff_left nofun]
  | retire line slot mask =>
    rw [doing_retire_congr entries, or_iff_left nofun]

/-- A source buffer's flight begins. -/
theorem doing_buffer_flies {i : Fin 2} {y : SourceBuffer} (streams : w.streams = v.streams) (entries : w.entries = v.entries)
    (flying : y.state = .inFlight)
    (begins : ∀ (j : Fin 2) (x : SourceBuffer), x.state = .inFlight →
      (w.engine.buffers[j] = some x ↔ v.engine.buffers[j] = some x ∨ j = i ∧ x = y)) (T : Task) :
    Doing w T ↔ Doing v T ∨ T = .buffer i y.line y.slot := by
  cases T with
  | entry m line slot =>
    rw [doing_entry_congr (congrArg (fun x : Vector Stream 8 => x[m]) streams), or_iff_left nofun]
  | buffer j line slot =>
    constructor
    · rintro ⟨x, buffer, state, rfl, rfl⟩
      rcases (begins j x state).mp buffer with old | ⟨rfl, rfl⟩
      · exact .inl ⟨x, old, state, rfl, rfl⟩
      · exact .inr rfl
    · rintro (⟨x, buffer, state, rest⟩ | same)
      · exact ⟨x, (begins j x state).mpr (.inl buffer), state, rest⟩
      · cases same
        exact ⟨y, (begins i y flying).mpr (.inr ⟨rfl, rfl⟩), flying, rfl, rfl⟩
  | retire line slot mask =>
    rw [doing_retire_congr entries, or_iff_left nofun]

/-- A post begins to retire. -/
theorem doing_retires {e : PostEntry} (streams : w.streams = v.streams) (engine : w.engine = v.engine)
    (retiring : e.state = .retiring)
    (begins : ∀ x : PostEntry, x.state = .retiring → (x ∈ w.entries ↔ x ∈ v.entries ∨ x = e)) (T : Task) :
    Doing w T ↔ Doing v T ∨ T = .retire e.line e.slot e.mask := by
  cases T with
  | entry m line slot =>
    rw [doing_entry_congr (congrArg (fun x : Vector Stream 8 => x[m]) streams), or_iff_left nofun]
  | buffer j line slot =>
    rw [doing_buffer_congr engine, or_iff_left nofun]
  | retire line slot mask =>
    constructor
    · rintro ⟨x, mem, state, rfl, rfl, rfl⟩
      rcases (begins x state).mp mem with old | rfl
      · exact .inl ⟨x, old, state, rfl, rfl, rfl⟩
      · exact .inr rfl
    · rintro (⟨x, mem, state, rest⟩ | same)
      · exact ⟨x, (begins x state).mpr (.inl mem), state, rest⟩
      · cases same
        exact ⟨e, (begins e retiring).mpr (.inr rfl), retiring, rfl, rfl, rfl⟩

/-! ### Each change -/

/-- An entry that is in no fetch is let go, and nothing else (R44). -/
theorem sameFlights_tail {r : ReadStream} {e : ReadEntry} {rest : List ReadEntry} (read : s.streams[n] = .read r)
    (queue : r.queue = e :: rest) (landed : e.state ≠ .inFlight) :
    SameFlights (vital s).streams[n] (.read { r with queue := rest }) := by
  intro x flying
  rw [entries_read read, queue, List.mem_cons, or_iff_right]
  · rfl
  · rintro rfl
    exact landed flying

theorem engine_letGoIn (v : Vital) (e : ReadEntry) : (letGoIn v e).engine = v.engine := by
  rw [letGoIn_frame]

theorem entries_letGoIn (v : Vital) (e : ReadEntry) : (letGoIn v e).entries = v.entries := by
  rw [letGoIn_frame]

/-- Two entries of one stream in one slot are one. -/
theorem entry_eq {r : ReadStream} {x y : ReadEntry} (slots : SlotsLawful s) (read : s.streams[n] = .read r) (hx : x ∈ r.queue)
    (hy : y ∈ r.queue) (same : x.slot = y.slot) : x = y :=
  List.inj_on_of_nodup_map (slots.readApart n r read) hx hy same

/-- Two source buffers in one slot are one. -/
theorem buffer_eq {i j : Fin 2} {x y : SourceBuffer} (slots : SlotsLawful s) (hx : s.engine.buffers[i] = some x)
    (hy : s.engine.buffers[j] = some y) (same : x.slot = y.slot) : i = j ∧ x = y := by
  have first : ownerOf (vital s) x.slot = .jobSource i := slots.sourceOwned i x hx
  have second : ownerOf (vital s) y.slot = .jobSource j := slots.sourceOwned j y hy
  rw [← same, first] at second
  cases second
  exact ⟨rfl, Option.some.inj (hx.symm.trans hy)⟩

theorem ownersOf_letGoIn {e : ReadEntry} (owner : s.seq.banks[bankOf e.line].owner = some o) (op : o.op = .fetch)
    (slot : o.slot = e.slot) (flying : e.state = .inFlight) (c : BankId) :
    ownersOf (letGoIn (vital s) e) c =
      replaced (ownersOf (vital s)) (bankOf e.line) (some { o with discard := true }) c := by
  rw [letGoIn_flying flying]
  change (ite _ _ _ : BankState × Option OwnerRecord).2 = ite _ _ _
  split
  · next here =>
    change markedOwner e.slot s.seq.banks[c].owner = _
    rw [here, owner, markedOwner, Option.map_some, if_pos ⟨op, slot⟩]
  · rfl

theorem ownersOf_releasedIn (v : Vital) (b : BankId) (c : BankId) :
    ownersOf (releasedIn b v) c = replaced (ownersOf v) b none c := by
  change (ite _ _ _ : BankState × Option OwnerRecord).2 = ite _ _ _
  split <;> rfl

theorem doing_releasedIn {T : Task} : Doing (releasedIn b v) T ↔ Doing v T := by cases T <;> rfl

section
variable (slots : SlotsLawful s) (work : WorkLawful (ownersOf (vital s)) (Doing (vital s)))
include work

/-- The fetch of a stream's position serves an entry of it. -/
theorem served_entry (owner : s.seq.banks[b].owner = some o) (op : o.op = .fetch) (kept : o.discard = false)
    (position : o.position.val = n.val) :
    ∃ e ∈ (vital s).streams[n].entries, e.state = .inFlight ∧ e.line = o.line ∧ e.slot = o.slot := by
  obtain ⟨T, doing, serves⟩ := work.served b o owner fun _ => kept
  cases T with
  | entry m line slot =>
    obtain ⟨-, -, position', rfl, rfl⟩ := serves
    obtain rfl : m = n := Fin.ext (position'.symm.trans position)
    exact doing
  | buffer =>
    obtain ⟨-, -, position', -⟩ := serves
    omega
  | retire => cases op.symm.trans serves.1

/-- The fetch of another position serves a source buffer. -/
theorem served_buffer (owner : s.seq.banks[b].owner = some o) (op : o.op = .fetch) (kept : o.discard = false)
    (position : ¬ o.position.val < 8) : o.position.val = 9 ∧ ∃ (i : Fin 2) (y : SourceBuffer),
      s.engine.buffers[i] = some y ∧ y.state = .inFlight ∧ y.line = some o.line ∧ y.slot = o.slot := by
  obtain ⟨T, doing, serves⟩ := work.served b o owner fun _ => kept
  cases T with
  | entry m line slot =>
    obtain ⟨-, -, position', -⟩ := serves
    omega
  | buffer i line slot =>
    obtain ⟨-, -, position', rfl, rfl⟩ := serves
    exact ⟨position', i, doing⟩
  | retire => cases op.symm.trans serves.1

theorem served_store (owner : s.seq.banks[b].owner = some o) (op : o.op = .store) :
    ∃ e ∈ s.post.entries, e.state = .retiring ∧ e.line = o.line ∧ e.slot = o.slot ∧ e.mask = o.mask := by
  obtain ⟨T, doing, serves⟩ := work.served b o owner fun fetch => by cases op.symm.trans fetch
  cases T with
  | entry => cases op.symm.trans serves.1
  | buffer => cases op.symm.trans serves.1
  | retire =>
    obtain ⟨-, rfl, rfl, rfl⟩ := serves
    exact doing

include slots

/-- An entry in flight is let go: its fetch is discarded (R44, R118). -/
theorem work_letGo {r : ReadStream} {e : ReadEntry} {rest : List ReadEntry} (read : s.streams[n] = .read r)
    (queue : r.queue = e :: rest) :
    WorkLawful (ownersOf (vital ((s.releaseEntry e).setStream n (.read { r with queue := rest }))))
      (Doing (vital ((s.releaseEntry e).setStream n (.read { r with queue := rest })))) := by
  rw [vital_setStream, vital_releaseEntry]
  have inQueue : e ∈ r.queue := queue ▸ List.mem_cons_self
  by_cases flying : e.state = .inFlight
  · have mem : e ∈ (vital s).streams[n].entries := entries_read read ▸ inQueue
    obtain ⟨o, owner, op, kept, position, line, slot⟩ := work.underWay (.entry n e.line e.slot) ⟨e, mem, flying, rfl, rfl⟩
    have distinct := slots.readApart n r read
    rw [queue, List.map_cons, List.nodup_cons] at distinct
    refine (work.finish (x := some { o with discard := true }) owner ?_).congr (ownersOf_letGoIn owner op slot flying)
      (doing_flight_ends ?_ ?_ ?_ op kept position (fun x _ => ?_) fun x hx _ same => ?_)
    · intro p hp
      cases hp
      exact ⟨congrArg bankOf line, fun live => by cases live op⟩
    · intro m other
      rw [setStreamIn_others _ _ _ _ other, letGoIn_frame]
    · exact engine_letGoIn (vital s) e
    · exact entries_letGoIn (vital s) e
    · rw [setStreamIn_same, entries_read read, queue, slot, List.mem_cons]
      constructor
      · exact fun tail => ⟨.inr tail, fun same => distinct.1 (same ▸ List.mem_map_of_mem tail)⟩
      · rintro ⟨rfl | tail, other⟩
        · exact absurd rfl other
        · exact tail
    · rw [entries_read read] at hx
      rw [entry_eq slots read hx inQueue (same.trans slot), line]
  · rw [letGoIn_landed flying]
    exact (sameWork_setStream (v := ownIn (vital s) e.slot .free) (sameFlights_tail read queue flying)).lawful work

/-- A grant begins the task of its requester (R41, R79, R145). -/
theorem work_grant {p : Fin 10} {q : Request} (free : s.seq.banks[bankOf q.line].owner = none) (told : Granted s p q w) :
    WorkLawful (ownersOf w) (Doing w) := by
  have owners (c : BankId) : ownersOf (ownedIn (bankOf q.line) (q.owner p) (vital s)) c =
      replaced (ownersOf (vital s)) (bankOf q.line) (some (q.owner p)) c := by
    change (ite _ _ _ : BankState × Option OwnerRecord).2 = ite _ _ _
    split <;> rfl
  cases told with
  | @entry n r e position read mem requested op line slot =>
    have serves : Serves (q.owner p) (.entry n e.line e.slot) := ⟨op, rfl, position, line, slot⟩
    refine (work.begin free rfl serves).congr owners (doing_flight_begins (e := { e with state := .inFlight })
      (setStreamIn_others _ _ _) rfl rfl rfl fun x state => ?_)
    rw [setStreamIn_same, entries_read read]
    change x ∈ (r.passEntry q.slot .requested .inFlight).queue ↔ _
    constructor
    · intro passed
      obtain ⟨y, hy, rfl⟩ := List.mem_map.mp passed
      split
      · next asks => exact .inr (by rw [entry_eq slots read hy mem (asks.1.trans slot)])
      · exact .inl hy
    · rintro (old | rfl)
      · refine List.mem_map.mpr ⟨x, old, if_neg fun asks => ?_⟩
        cases state.symm.trans asks.2
      · exact List.mem_map.mpr ⟨e, mem, if_pos ⟨slot.symm, requested⟩⟩
  | @post e _ oldest op line slot mask =>
    obtain ⟨older, newer, entries, waiting, -, retired⟩ := retireOldest_split oldest
    have serves : Serves (q.owner p) (.retire e.line e.slot e.mask) := ⟨op, line, slot, mask⟩
    refine (work.begin free rfl serves).congr owners
      (doing_retires (e := { e with state := .retiring }) rfl rfl rfl fun x state => ?_)
    change x ∈ s.post.retireOldest.entries ↔ x ∈ s.post.entries ∨ _
    rw [retired, entries]
    simp only [List.mem_append, List.mem_cons]
    have notOldest : x ≠ e := fun same => by cases (same ▸ state).symm.trans waiting
    tauto
  | @buffer i y position held requested op line slot =>
    have serves : Serves (q.owner p) (.buffer i y.line y.slot) := ⟨op, rfl, congrArg Fin.val position, line, slot⟩
    refine (work.begin free rfl serves).congr owners
      (doing_buffer_flies (y := { y with state := .inFlight }) rfl rfl rfl fun j x state => ?_)
    have now : (s.engine.buffers.map (Option.map (flown q.slot)))[j] = s.engine.buffers[j].map (flown q.slot) :=
      Vector.getElem_map ..
    change (s.engine.buffers.map (Option.map (flown q.slot)))[j] = some x ↔ s.engine.buffers[j] = some x ∨ _
    rw [now, Option.map_eq_some_iff]
    constructor
    · rintro ⟨z, hz, rfl⟩
      by_cases asks : z.slot = q.slot ∧ z.state = .requested
      · obtain ⟨rfl, rfl⟩ := buffer_eq slots hz held (asks.1.trans slot)
        exact .inr ⟨rfl, if_pos asks⟩
      · rw [flown, if_neg asks]
        exact .inl hz
    · rintro (old | ⟨rfl, rfl⟩)
      · exact ⟨x, old, if_neg fun asks => by cases state.symm.trans asks.2⟩
      · exact ⟨y, held, if_pos ⟨slot.symm, requested⟩⟩

omit slots in
/-- A discarded fetch returns. -/
theorem work_returnDiscarded (owner : s.seq.banks[b].owner = some o) (op : o.op = .fetch) (marked : o.discard = true) :
    WorkLawful (ownersOf (vital (released (s.release o.slot) b))) (Doing (vital (released (s.release o.slot) b))) := by
  rw [vital_released, vital_release]
  refine (work.drop owner fun live => ?_).congr (ownersOf_releasedIn _ b) fun T => doing_releasedIn
  cases marked.symm.trans (live op)

/-- A fetch returns to its entry (R42). -/
theorem work_returnEntry {r : ReadStream} {l : Line} (owner : s.seq.banks[b].owner = some o) (op : o.op = .fetch)
    (kept : o.discard = false) (position : o.position.val = n.val) (read : s.streams[n] = .read r) :
    WorkLawful (ownersOf (vital (released ((s.fillSlot o.slot l).setStream n (.read (r.passEntry o.slot .inFlight .filled))) b)))
      (Doing (vital (released ((s.fillSlot o.slot l).setStream n (.read (r.passEntry o.slot .inFlight .filled))) b))) := by
  rw [vital_released, vital_setStream, vital_fillSlot]
  refine (work.finish (x := none) owner fun _ h => by cases h).congr (ownersOf_releasedIn _ b) fun T =>
    doing_releasedIn.trans (doing_flight_ends (setStreamIn_others _ _ _) rfl rfl op kept position (fun x state => ?_)
      (fun x hx state same => ?_) T)
  · rw [setStreamIn_same]
    change x ∈ (r.passEntry o.slot .inFlight .filled).queue ↔ x ∈ (vital s).streams[n].entries ∧ _
    rw [entries_read read]
    constructor
    · intro passed
      obtain ⟨y, hy, rfl⟩ := List.mem_map.mp passed
      split at state
      · cases state
      · next other => exact ⟨by rwa [if_neg other], fun same => other ⟨by rwa [if_neg other] at same, state⟩⟩
    · rintro ⟨old, other⟩
      exact List.mem_map.mpr ⟨x, old, if_neg fun asks => other asks.1⟩
  · obtain ⟨e, mem, -, line, slot⟩ := served_entry work owner op kept position
    rw [← line, entry_eq slots read (entries_read read ▸ hx) (entries_read read ▸ mem) (same.trans slot.symm)]

/-- A fetch returns to its source buffer (R146). -/
theorem work_returnBuffer {l : Line} (owner : s.seq.banks[b].owner = some o) (op : o.op = .fetch) (kept : o.discard = false)
    (position : ¬ o.position.val < 8) :
    WorkLawful (ownersOf (vital (released (s.bufferReturn o.slot l) b))) (Doing (vital (released (s.bufferReturn o.slot l) b))) := by
  obtain ⟨at9, i, y, held, -, line, slot⟩ := served_buffer work owner op kept position
  rw [vital_released, vital_bufferReturn]
  refine (work.finish (x := none) owner fun _ h => by cases h).congr (ownersOf_releasedIn _ b) fun T =>
    doing_releasedIn.trans (doing_buffer_lands (v := vital s) (w := withEngineIn (withSlots (vital s) _)
      { s.engine with buffers := s.engine.buffers.map (Option.map (SourceBuffer.fill o.slot)) })
      rfl rfl op kept at9 (fun j x state => ?_) (fun j x hx state same => ?_) T)
  · have now : (s.engine.buffers.map (Option.map (SourceBuffer.fill o.slot)))[j] =
      s.engine.buffers[j].map (SourceBuffer.fill o.slot) := Vector.getElem_map ..
    change (s.engine.buffers.map (Option.map (SourceBuffer.fill o.slot)))[j] = some x ↔ s.engine.buffers[j] = some x ∧ _
    rw [now, Option.map_eq_some_iff]
    constructor
    · rintro ⟨z, hz, rfl⟩
      unfold SourceBuffer.fill at state ⊢
      split at state
      · cases state
      · next other => exact ⟨by rwa [if_neg other], fun same => other ⟨by rwa [if_neg other] at same, state⟩⟩
    · rintro ⟨old, other⟩
      exact ⟨x, old, if_neg fun asks => other asks.1⟩
  · obtain ⟨-, rfl⟩ := buffer_eq slots hx held (same.trans slot.symm)
    exact line

omit slots in
/-- A fetch for a stream finds a read stream (R41). -/
theorem returnLost_absurd (owner : s.seq.banks[b].owner = some o) (op : o.op = .fetch) (kept : o.discard = false)
    (position : o.position.val = n.val) (other : ∀ r, s.streams[n] ≠ .read r) : False := by
  obtain ⟨e, mem, -⟩ := served_entry work owner op kept position
  obtain ⟨r, read, -⟩ := mem_entries.mp mem
  exact other r read

/-- A store completes (R79). -/
theorem work_store (owner : s.seq.banks[b].owner = some o) (op : o.op = .store) :
    WorkLawful (ownersOf (vital (((s.store o).removeStored o.slot).releaseBank b)))
      (Doing (vital (((s.store o).removeStored o.slot).releaseBank b))) := by
  obtain ⟨e, mem, -, line, slot, mask⟩ := served_store work owner op
  rw [vital_stored]
  refine (work.finish (x := none) owner fun _ h => by cases h).congr (fun c => ?_)
    (doing_store_ends rfl rfl op (fun x state => ?_) fun x hx state same => ?_)
  · change (ite _ _ _ : BankState × Option OwnerRecord).2 = ite _ _ _
    split <;> rfl
  · change x ∈ s.post.entries.filter (fun e => !e.storesFrom o.slot) ↔ x ∈ s.post.entries ∧ _
    rw [List.mem_filter]
    refine and_congr_right fun _ => ?_
    simp [PostEntry.storesFrom, state]
  · rw [post_eq_of_slot slots.postApart hx mem (same.trans slot.symm)]
    exact ⟨line, mask⟩

omit slots in
/-- Entry to RESETTING discards every fetch, and leaves the posts that are RETIRING (R83, R122). -/
theorem work_reset : WorkLawful (ownersOf (vital s.enterResetting)) (Doing (vital s.enterResetting)) := by
  have retiring (T : Task) : Doing (vital s.enterResetting) T ↔
      (∃ line slot mask, T = .retire line slot mask) ∧ Doing (vital s) T := by
    rw [vital_enterResetting]
    cases T with
    | entry n line slot => simp [Doing, Stream.entries]
    | buffer k line slot => simp [Doing, Engine.reset]
    | retire line slot mask =>
      refine ⟨fun ⟨e, mem, rest⟩ => ⟨⟨_, _, _, rfl⟩, ?_⟩, fun ⟨_, e, mem, state, rest⟩ => ?_⟩
      · obtain ⟨x, kept, rfl⟩ := List.mem_map.mp mem
        exact ⟨x, List.mem_of_mem_filter kept, rest⟩
      · exact ⟨_, List.mem_map_of_mem (List.mem_filter.mpr ⟨mem, by simpa using state⟩), state, rest⟩
  have owners (c : BankId) : ownersOf (vital s.enterResetting) c = markedAtReset s.seq.banks[c].owner := by
    rw [vital_enterResetting]
    rfl
  refine ⟨fun c y marked => ?_, fun c y marked live => ?_, fun T doing => ?_⟩
  · obtain ⟨z, owner, ⟨-, rfl⟩ | ⟨-, rfl⟩⟩ := markedAtReset_eq_some ((owners c).symm.trans marked)
    · exact work.ownBank c z owner
    · exact work.ownBank c y owner
  · obtain ⟨z, owner, ⟨fetch, rfl⟩ | ⟨other, rfl⟩⟩ := markedAtReset_eq_some ((owners c).symm.trans marked)
    · cases live fetch
    · have op : y.op = .store := by
        cases op : y.op with
        | fetch => exact absurd op other
        | store => rfl
      obtain ⟨e, mem, state, line, slot, mask⟩ := served_store work owner op
      exact ⟨.retire y.line y.slot y.mask, (retiring _).mpr ⟨⟨_, _, _, rfl⟩, e, mem, state, line, slot, mask⟩, op, rfl, rfl, rfl⟩
  · obtain ⟨⟨line, slot, mask, rfl⟩, doing⟩ := (retiring T).mp doing
    obtain ⟨y, owner, op, rest⟩ := work.underWay _ doing
    refine ⟨y, (owners _).trans ?_, op, rest⟩
    have owner : s.seq.banks[bankOf line].owner = some y := owner
    change markedAtReset s.seq.banks[bankOf line].owner = some y
    rw [owner, markedAtReset, Option.map_some, if_neg (by rw [op]; decide)]

/-- The owners and the tasks agree after every change. -/
theorem work_change (claims : SourceClaims (vital s)) (h : Change s t) : WorkLawful (ownersOf (vital t)) (Doing (vital t)) := by
  cases h with
  | aside h =>
    refine (sameWork_of (v := vital s) (w := vital t) h.owners (fun n => ?_) (fun k x _ => ?_) fun line slot mask => ?_).lawful work
    · exact .of_entries (congrArg (fun x : Vector Stream 8 => x[n].entries) h.streams)
    · exact Iff.of_eq (congrArg (fun e : Engine => e.buffers[k] = some x) h.engine)
    · exact doing_retire_congr h.entries
  | tagAll =>
    rw [vital_withPost]
    refine (sameWork_withEntries (v := vital s) fun line slot mask => ?_).lawful work
    exact retires_map (v := vital s) (f := fun e => { e with tag := true }) (es := s.post.entries) (fun e => ⟨rfl, fun _ => ⟨rfl, rfl, rfl⟩⟩) line slot mask
  | stream _ turns =>
    rw [vital_setStream]
    exact (sameWork_setStream (v := vital s) (.of_entries turns.entries)).lawful work
  | letGo read queue => exact work_letGo slots work read queue
  | @append n r k read =>
    rw [vital_setStream, vital_own]
    refine (sameWork_setStream (v := ownIn (vital s) k _) fun e flying => ?_).lawful work
    change e ∈ r.queue ++ [_] ↔ e ∈ (vital s).streams[n].entries
    rw [entries_read read, List.mem_append, List.mem_singleton, or_iff_left]
    rintro rfl
    cases flying
  | @gather n w k write =>
    rw [vital_setStream, vital_own]
    exact (sameWork_setStream (v := ownIn (vital s) k _) (sameFlights_landed (entries_write write) rfl)).lawful work
  | @dropAssembly n w a c write _ empty =>
    rw [vital_setStream, vital_release]
    exact (sameWork_setStream (v := ownIn (vital s) a.slot _)
      (sameFlights_landed (entries_write write) empty.entries)).lawful work
  | @fill o k l =>
    exact work.congr (fun _ => rfl) fun T => by cases T <;> rfl
  | @postAssembly t n w a mask c write _ taken empty =>
    rw [vital_setStream]
    refine ((sameWork_acceptPost taken).trans (sameWork_setStream (sameFlights_landed ?_ empty.entries))).lawful work
    change t.streams[n].entries = []
    rw [streams_acceptPost taken, write]
    rfl
  | @postDest t d line mask e dest _ taken turns =>
    have engine : t.engine = s.engine := engine_acceptPost taken
    rw [vital_withEngine]
    refine ((sameWork_acceptPost taken).trans (sameWork_withEngine fun k x flying => ?_)).lawful work
    change e.buffers[k] = some x ↔ t.engine.buffers[k] = some x
    rw [turns.inFlight k x flying, engine]
  | engine _ turns =>
    rw [vital_withEngine]
    exact (sameWork_withEngine (v := vital s) turns.inFlight).lawful work
  | @dropBuffer k x buffer landed =>
    rw [vital_withEngine, vital_release]
    refine (sameWork_withEngine (v := ownIn (vital s) x.slot .free) fun j y flying => ?_).lawful work
    change (s.engine.buffers.set k.val none)[j] = some y ↔ s.engine.buffers[j] = some y
    rw [getElem_set_buffer]
    split
    · next here =>
      subst here
      rw [buffer]
      refine ⟨nofun, fun h => ?_⟩
      cases h
      exact absurd flying landed
    · rfl
  | @dropDest d =>
    rw [vital_withEngine, vital_release]
    exact (sameWork_withEngine (v := ownIn (vital s) d.slot .free) fun _ _ _ => Iff.rfl).lawful work
  | @takeSource c x i k claim purpose =>
    rw [vital_withEngine, vital_own, vital_unclaimed]
    refine (sameWork_withEngine (v := ownIn (withClaims (vital s) _) k _) fun j y flying => ?_).lawful work
    change (s.engine.buffers.set i.val _)[j] = some y ↔ s.engine.buffers[j] = some y
    rw [getElem_set_buffer]
    split
    · next here =>
      subst here
      have none : s.engine.buffers[j] = .none := (claims c x j claim purpose).2
      rw [none]
      refine ⟨fun h => ?_, nofun⟩
      cases h
      cases flying
    · rfl
  | @takeDest c x d =>
    rw [vital_withEngine, vital_own, vital_unclaimed]
    exact (sameWork_withEngine (v := ownIn (withClaims (vital s) _) d.slot _) fun _ _ _ => Iff.rfl).lawful work
  | claims => exact work.congr (fun _ => rfl) fun T => by cases T <;> rfl
  | unclaim => exact work.congr (fun _ => rfl) fun T => by cases T <;> rfl
  | @grant p q presented eligible =>
    exact work_grant slots work ((Grants.eligible_iff s q).mp eligible).1 (vital_grantRequest presented)
  | returnDiscarded _ owner op marked => exact work_returnDiscarded work owner op marked
  | returnEntry _ owner op kept position read => exact work_returnEntry slots work owner op kept position read
  | returnBuffer _ owner op kept position => exact work_returnBuffer slots work owner op kept position
  | returnLost _ owner op kept position other => exact (returnLost_absurd work owner op kept position other).elim
  | store _ owner op => exact work_store slots work owner op
  | enterResetting => exact work_reset work
  | fall =>
    obtain ⟨m, d, frame⟩ := fall_frame s
    rw [frame]
    exact work.congr (fun _ => rfl) fun T => by cases T <;> rfl
  | rise => exact ((operationsLawful_iff _).mp (rise_vacant s).operationsLawful).1

end

/-! ### The banks that write -/

/-- The law of the writing banks, of the frame. -/
def FrameStores (f : Frame) : Prop := ∀ b, (f.banks b).1 = .writing ∨ (f.banks b).1 = .recovering →
  (f.banks b).2 = some .store

theorem storesOwned_iff : StoresOwned v ↔ FrameStores (frameOf v) := by
  refine forall_congr' fun b => imp_congr_right fun _ => ?_
  exact (Option.map_eq_some_iff (f := OwnerRecord.op) (x := (v.banks b).2)).symm

theorem frameStores_setBank {f : Frame} {x : BankState × Option MemOp} (stores : FrameStores f)
    (here : x.1 = .writing ∨ x.1 = .recovering → x.2 = some .store) : FrameStores (f.setBank b x) := by
  intro c
  by_cases same : c = b
  · subst same
    rw [setBank_same]
    exact here
  · rw [setBank_other f x same]
    exact stores c

theorem storesOwned_change (h : Change s t) (stores : StoresOwned (vital s)) : StoresOwned (vital t) := by
  have before := storesOwned_iff.mp stores
  cases frameChange h with
  | calm h => exact storesOwned_iff.mpr (h ▸ before)
  | aside h =>
    intro b busy
    have owner : ((vital t).banks b).2 = ((vital s).banks b).2 := h.owners b
    rw [owner]
    rcases h.stores b busy with old | now
    · exact stores b old
    · exact now
  | @owned b op free _ _ h =>
    refine storesOwned_iff.mpr (h ▸ frameStores_setBank before fun busy => ?_)
    obtain ⟨x, owner, -⟩ := stores b busy
    cases free.symm.trans owner
  | returned _ h => exact storesOwned_iff.mpr (h ▸ frameStores_setBank before (by simp))
  | store _ h => exact storesOwned_iff.mpr (h ▸ frameStores_setBank before (by simp))
  | enterResetting h =>
    subst h
    refine storesOwned_iff.mpr ?_
    rw [frameOf_enterResetting]
    exact before
  | fall h =>
    subst h
    obtain ⟨m, d, frame⟩ := fall_frame s
    rw [frame]
    exact stores
  | rise h =>
    subst h
    exact ((operationsLawful_iff _).mp (rise_vacant s).operationsLawful).2.1

end Sys2Proof.Proofs.Tasks

/-! PROOFS. The claims of the Move Engine (R144, R147); and that every step keeps the laws of slots and of operations, that
no slot leaks, and what RESETTING leaves. -/

namespace Sys2Proof.Proofs.SlotLaws

open Sys2Proof Sys2Proof.Machine Sys2Proof.Safety Sys2Proof.Laws
open Sys2Proof.Proofs.LinePool Sys2Proof.Proofs.Coherence Sys2Proof.Proofs.Changes Sys2Proof.Proofs.StreamChanges
open Sys2Proof.Proofs.BankChanges Sys2Proof.Proofs.BankLaws Sys2Proof.Proofs.QueueLaws Sys2Proof.Proofs.SlotMoves
open Sys2Proof.Proofs.ActionChanges Sys2Proof.Proofs.PinReset Sys2Proof.Proofs.StepChanges Sys2Proof.Proofs.SlotChanges
open Sys2Proof.Proofs.Tasks Sys2Proof.Proofs.Grants

variable {s t : State} {v w : Vital} {n : StreamId} {k : SlotId} {b : BankId} {o : OwnerRecord}

/-! ### Claims -/

/-- No claim is new, and the Move Engine takes no buffer and no destination line. -/
structure ClaimsKept (v w : Vital) : Prop where
  claims : ∀ (c : Fin 9) (x : Claim), w.claims[c] = some x → v.claims[c] = some x
  buffers : ∀ k : Fin 2, v.engine.buffers[k] = none → w.engine.buffers[k] = none
  dest : v.engine.dest = none → w.engine.dest = none

/-- What the changes do to the claims and to what the Move Engine claims slots for. -/
inductive ClaimsChange (s t : State) : Prop
  | kept (h : ClaimsKept (vital s) (vital t))
  | source {c : Fin 9} {x : Claim} {i : Fin 2} (claim : s.pool.claims[c] = some x) (purpose : x.purpose = .jobSource i)
      (claims : ∀ (d : Fin 9) (y : Claim), t.pool.claims[d] = some y → d ≠ c ∧ s.pool.claims[d] = some y)
      (dest : t.engine.dest = s.engine.dest)
  | dest {c : Fin 9} {x : Claim} (claim : s.pool.claims[c] = some x) (purpose : x.purpose = .jobDest)
      (claims : ∀ (d : Fin 9) (y : Claim), t.pool.claims[d] = some y → d ≠ c ∧ s.pool.claims[d] = some y)
      (buffers : t.engine.buffers = s.engine.buffers)
  | list (claims : t.pool.claims = s.claimList) (engine : t.engine = s.engine)

theorem claimsKept_of_engine (claims : w.claims = v.claims) (engine : w.engine = v.engine) : ClaimsKept v w :=
  ⟨fun _ _ h => claims ▸ h, fun _ h => engine ▸ h, fun h => engine ▸ h⟩

theorem none_of_map {α β : Type} {f : α → β} {x y : Option α} (same : y.map f = x.map f) (none : x = none) : y = .none := by
  rw [none] at same
  simpa using same

theorem claimsKept_of_turns {e : Engine} (claims : w.claims = v.claims) (turns : EngineTurns v.engine e) (engine : w.engine = e) :
    ClaimsKept v w where
  claims _ _ h := claims ▸ h
  buffers k h := engine ▸ none_of_map (turns.buffers k) h
  dest h := engine ▸ none_of_map turns.dest h

theorem claimsKept_of_map {f : SourceBuffer → SourceBuffer} (claims : w.claims = v.claims)
    (engine : w.engine = { v.engine with buffers := v.engine.buffers.map (Option.map f) }) : ClaimsKept v w where
  claims _ _ h := claims ▸ h
  buffers k h := by
    rw [engine]
    refine (Vector.getElem_map ..).trans ?_
    exact (congrArg (Option.map f) h).trans rfl
  dest h := by
    rw [engine]
    exact h

/-- A claim that has left the list. -/
theorem unclaimed_claims {c d : Fin 9} {y : Claim} (h : (unclaimed s c).pool.claims[d] = some y) :
    d ≠ c ∧ s.pool.claims[d] = some y := by
  have set : (s.pool.claims.set c.val none)[d] = some y := h
  by_cases here : d = c
  · subst here
    simp at set
  · have apart : c.val ≠ d.val := fun same => here (Fin.ext same.symm)
    exact ⟨here, by simpa [apart] using set⟩

theorem claims_of_vital (h : vital t = v) : t.pool.claims = v.claims := congrArg Vital.claims h

theorem claimsChange (h : Change s t) : ClaimsChange s t := by
  cases h with
  | aside h => exact .kept (claimsKept_of_engine h.claims h.engine)
  | tagAll => exact .kept (claimsKept_of_engine rfl rfl)
  | stream => exact .kept (claimsKept_of_engine rfl rfl)
  | @letGo n r e rest =>
    refine .kept ?_
    rw [vital_setStream, releaseEntry_frame]
    exact claimsKept_of_engine rfl rfl
  | append => exact .kept (claimsKept_of_engine rfl rfl)
  | gather => exact .kept (claimsKept_of_engine rfl rfl)
  | dropAssembly => exact .kept (claimsKept_of_engine rfl rfl)
  | fill => exact .kept (claimsKept_of_engine rfl rfl)
  | postAssembly _ _ taken =>
    refine .kept ?_
    rw [vital_setStream, vital_acceptPost taken]
    exact claimsKept_of_engine rfl rfl
  | @postDest t d line mask e dest _ taken turns =>
    refine .kept ?_
    rw [vital_withEngine, vital_acceptPost taken]
    exact ⟨fun _ _ h => h, fun k h => none_of_map (turns.buffers k) h, fun _ => none_of_map turns.dest rfl⟩
  | engine _ turns => exact .kept (claimsKept_of_turns rfl turns rfl)
  | @dropBuffer k x =>
    refine .kept ⟨fun _ _ h => h, fun j h => ?_, fun h => h⟩
    change (s.engine.buffers.set k.val none)[j] = none
    rw [getElem_set_buffer]
    split
    · rfl
    · exact h
  | dropDest => exact .kept ⟨fun _ _ h => h, fun _ h => h, fun _ => rfl⟩
  | takeSource claim purpose => exact .source claim purpose (fun _ _ => unclaimed_claims) rfl
  | takeDest claim purpose => exact .dest claim purpose (fun _ _ => unclaimed_claims) rfl
  | claims => exact .list rfl rfl
  | unclaim => exact .kept ⟨fun _ _ h => (unclaimed_claims h).2, fun _ h => h, fun h => h⟩
  | @grant p q presented =>
    have told := vital_grantRequest presented
    refine .kept ?_
    generalize vital (s.grantRequest p q) = v at told
    cases told with
    | entry => exact claimsKept_of_engine rfl rfl
    | post => exact claimsKept_of_engine rfl rfl
    | buffer => exact claimsKept_of_map rfl rfl
  | returnDiscarded =>
    refine .kept ?_
    rw [vital_released]
    exact claimsKept_of_engine rfl rfl
  | returnEntry =>
    refine .kept ?_
    rw [vital_released]
    exact claimsKept_of_engine rfl rfl
  | returnBuffer =>
    refine .kept ?_
    rw [vital_released, vital_bufferReturn]
    exact claimsKept_of_map rfl rfl
  | returnLost =>
    refine .kept ?_
    rw [vital_released]
    exact claimsKept_of_engine rfl rfl
  | store =>
    refine .kept ?_
    rw [vital_stored]
    exact claimsKept_of_engine rfl rfl
  | enterResetting =>
    refine .kept ?_
    rw [vital_enterResetting]
    exact ⟨by simp, by simp [Engine.reset], fun _ => rfl⟩
  | fall =>
    obtain ⟨m, d, frame⟩ := fall_frame s
    rw [frame]
    exact .kept (claimsKept_of_engine rfl rfl)
  | rise =>
    have engine : (vital s.rise).engine = Engine.reset := (rise_vacant s).engine
    refine .kept ⟨fun c x h => ?_, fun k _ => ?_, fun _ => ?_⟩
    · cases ((rise_vacant s).noClaim c).symm.trans h
    · rw [engine]
      simp [Engine.reset]
    · rw [engine]
      rfl

theorem stream_claim_purpose {c : Stream} {x : Claim} (h : c.claim = some x) : x.purpose = .read ∨ x.purpose = .assembly := by
  unfold Stream.claim at h
  split at h
  · cases h
  · obtain ⟨-, made⟩ := Option.ite_none_right_eq_some.mp h
    cases made
    exact .inl rfl
  · split at h
    · cases h
      exact .inr rfl
    all_goals cases h

/-- The Move Engine's claim is one that waits already, or for a buffer or a destination line that it does not hold. -/
theorem engine_claim_cases {e : Engine} {waiting : Option Claim} {x : Claim} (h : e.claim waiting = some x) :
    waiting = some x ∨ (∃ i : Fin 2, x.purpose = .jobSource i ∧ e.buffers[i] = none) ∨ x.purpose = .jobDest ∧ e.dest = none := by
  have source (h : e.sourceClaim = some x) : ∃ i : Fin 2, x.purpose = .jobSource i ∧ e.buffers[i] = none := by
    unfold Engine.sourceClaim at h
    split at h
    · next none =>
      cases h
      exact ⟨0, rfl, none⟩
    · next none =>
      cases h
      exact ⟨1, rfl, none⟩
    · cases h
  have dest {j : ActiveJob} (h : e.destClaim j = some x) : x.purpose = .jobDest ∧ e.dest = none := by
    unfold Engine.destClaim at h
    split at h
    · next none _ =>
      cases h
      exact ⟨rfl, none⟩
    · cases h
    · cases h
  unfold Engine.claim at h
  split at h
  · cases h
  · obtain ⟨-, h⟩ := Option.ite_none_right_eq_some.mp h
    exact .inr (.inl (source h))
  · split at h
    · exact .inr (.inr (dest h))
    · split at h
      · cases h
      · exact .inl h
  · cases h

/-- What stands in the followed claim list (R24). -/
theorem claimList_cases {c : Fin 9} {x : Claim} (h : s.claimList[c] = some x) :
    (x.purpose = .read ∨ x.purpose = .assembly) ∨ c = 8 ∧ (s.pool.claims[c] = some x ∨
      (∃ i : Fin 2, x.purpose = .jobSource i ∧ s.engine.buffers[i] = none) ∨ x.purpose = .jobDest ∧ s.engine.dest = none) := by
  have claim : s.claimOf c = some x := by
    rw [← h]
    simp [State.claimList]
  unfold State.claimOf at claim
  split at claim
  · exact .inl (stream_claim_purpose claim)
  · exact .inr ⟨by omega, engine_claim_cases claim⟩

theorem sourceClaims_change (h : Change s t) (lawful : SourceClaims (vital s)) : SourceClaims (vital t) := by
  intro c x k claim purpose
  cases claimsChange h with
  | kept h =>
    obtain ⟨at8, none⟩ := lawful c x k (h.claims c x claim) purpose
    exact ⟨at8, h.buffers k none⟩
  | source taken takes claims =>
    obtain ⟨other, old⟩ := claims c x claim
    exact absurd ((lawful c x k old purpose).1.trans (lawful _ _ _ taken takes).1.symm) other
  | dest _ _ claims buffers =>
    obtain ⟨at8, none⟩ := lawful c x k (claims c x claim).2 purpose
    exact ⟨at8, (congrArg (fun y : Vector (Option SourceBuffer) 2 => y[k]) buffers).trans none⟩
  | list claims engine =>
    have listed : s.claimList[c] = some x := claims ▸ claim
    rcases claimList_cases listed with (read | assembly) | ⟨at8, waiting | ⟨i, source, none⟩ | ⟨dest, -⟩⟩
    · cases read.symm.trans purpose
    · cases assembly.symm.trans purpose
    · exact ⟨at8, (congrArg (fun e : Engine => e.buffers[k]) engine).trans (lawful c x k waiting purpose).2⟩
    · cases source.symm.trans purpose
      exact ⟨at8, (congrArg (fun e : Engine => e.buffers[k]) engine).trans none⟩
    · cases dest.symm.trans purpose

theorem destClaims_change (h : Change s t) (lawful : DestClaims (vital s)) : DestClaims (vital t) := by
  intro c x claim purpose
  cases claimsChange h with
  | kept h =>
    obtain ⟨at8, none⟩ := lawful c x (h.claims c x claim) purpose
    exact ⟨at8, h.dest none⟩
  | source _ _ claims dest =>
    obtain ⟨at8, none⟩ := lawful c x (claims c x claim).2 purpose
    exact ⟨at8, dest.trans none⟩
  | dest taken takes claims =>
    obtain ⟨other, old⟩ := claims c x claim
    exact absurd ((lawful c x old purpose).1.trans (lawful _ _ taken takes).1.symm) other
  | list claims engine =>
    have listed : s.claimList[c] = some x := claims ▸ claim
    rcases claimList_cases listed with (read | assembly) | ⟨at8, waiting | ⟨i, source, -⟩ | ⟨-, none⟩⟩
    · cases read.symm.trans purpose
    · cases assembly.symm.trans purpose
    · exact ⟨at8, (congrArg Engine.dest engine).trans (lawful c x waiting purpose).2⟩
    · cases source.symm.trans purpose
    · exact ⟨at8, (congrArg Engine.dest engine).trans none⟩

/-! ### Slots, operations and their holders -/

theorem slotsLawful_change (h : Change s t) (slots : SlotsLawful s) (operations : OperationsLawful s) : SlotsLawful t := by
  have lawful := (slotsLawful_iff s).mp slots
  refine (slotsLawful_iff t).mpr ?_
  rcases moved_change h lawful operations with ⟨k, a, b, pass, -⟩ | rfl | rfl
  · exact heldIsOwned_of_passes pass lawful
  · exact heldIsOwned_reset slots operations
  · exact (slotsLawful_iff _).mp (rise_vacant s).slotsLawful

theorem operationsLawful_change (h : Change s t) (slots : SlotsLawful s) (operations : OperationsLawful s) :
    OperationsLawful t := by
  obtain ⟨work, stores, claims⟩ := (operationsLawful_iff s).mp operations
  exact (operationsLawful_iff t).mpr
    ⟨work_change slots work claims h, storesOwned_change h stores, sourceClaims_change h claims⟩

theorem slotsHeld_change (h : Change s t) (slots : SlotsLawful s) (operations : OperationsLawful s) (held : SlotsHeld s) :
    SlotsHeld t := by
  obtain ⟨owned, empty, claims⟩ := (slotsHeld_iff s).mp held
  refine (slotsHeld_iff t).mpr ⟨?_, fun n => waitsEmpty_streamChange (streamChange h n) (empty n), destClaims_change h claims⟩
  rcases moved_change h ((slotsLawful_iff s).mp slots) operations with ⟨k, a, b, pass, fully⟩ | rfl | rfl
  · exact ownedIsHeld_of_passes pass (fully ⟨empty, claims⟩) owned
  · exact ownedIsHeld_reset
  · exact ((slotsHeld_iff _).mp (rise_vacant s).slotsHeld).1

theorem length_le_one_of_nodup {α : Type} {l : List α} (apart : l.Nodup) (same : ∀ x ∈ l, ∀ y ∈ l, x = y) : l.length ≤ 1 := by
  match l with
  | [] => exact Nat.zero_le _
  | [x] => exact Nat.le_refl _
  | x :: y :: rest =>
    have fresh := (List.nodup_cons.mp apart).1
    exact absurd (same x (by simp) y (by simp) ▸ List.mem_cons_self) fresh

/-- Two posts that retire for one line are one: their line's bank works on both (R75, R92). -/
theorem oneRetiring (slots : SlotsLawful s) (operations : OperationsLawful s) : OneRetiringPerLine s := by
  intro line
  refine length_le_one_of_nodup ((List.Nodup.of_map _ slots.postApart).filter _) fun x hx y hy => ?_
  simp only [List.mem_filter, decide_eq_true_eq] at hx hy
  obtain ⟨memX, lineX, retiringX⟩ := hx
  obtain ⟨memY, lineY, retiringY⟩ := hy
  obtain ⟨o, ownerX, -, -, slotX, -⟩ := operations.retiringUnderWay x memX retiringX
  obtain ⟨p, ownerY, -, -, slotY, -⟩ := operations.retiringUnderWay y memY retiringY
  have first : ownersOf (vital s) (bankOf x.line) = some o := ownerX
  have second : ownersOf (vital s) (bankOf y.line) = some p := ownerY
  rw [lineX, ← lineY, second] at first
  have one : o = p := (Option.some.inj first).symm
  exact post_eq_of_slot slots.postApart memX memY (slotX.symm.trans (one ▸ slotY))

/-! ### RESETTING (R169, R171) -/

/-- What RESETTING leaves of the requesters, in the vital part. -/
structure Quiet (v : Vital) : Prop where
  closed : ∀ n : StreamId, v.streams[n] = .closed
  engine : v.engine = Engine.reset
  noClaim : ∀ c : Fin 9, v.claims[c] = none
  retiring : ∀ e ∈ v.entries, e.state = .retiring

theorem resettingQuiet_iff (s : State) : ResettingQuiet s ↔ (s.port.state = .resetting → Quiet (vital s)) :=
  ⟨fun h resetting => ⟨(h resetting).1, (h resetting).2.1, (h resetting).2.2.1, (h resetting).2.2.2⟩,
    fun h resetting => ⟨(h resetting).closed, (h resetting).engine, (h resetting).noClaim, (h resetting).retiring⟩⟩

theorem quiet_reset (s : State) : Quiet (vital s.enterResetting) := by
  rw [vital_enterResetting]
  refine ⟨fun n => by simp, rfl, fun c => by simp, fun e mem => ?_⟩
  obtain ⟨x, kept, rfl⟩ := List.mem_map.mp mem
  simpa using (List.mem_filter.mp kept).2

section
variable (quiet : Quiet (vital s))
include quiet

theorem Quiet.not_read {r : ReadStream} (read : s.streams[n] = .read r) : False := by
  cases (quiet.closed n).symm.trans read

theorem Quiet.not_write {x : WriteStream} (write : s.streams[n] = .write x) : False := by
  cases (quiet.closed n).symm.trans write

theorem Quiet.not_claim {c : Fin 9} {x : Claim} (claim : s.pool.claims[c] = some x) : False := by
  cases (quiet.noClaim c).symm.trans claim

theorem Quiet.not_buffer {i : Fin 2} {x : SourceBuffer} (buffer : s.engine.buffers[i] = some x) : False := by
  have engine : s.engine = Engine.reset := quiet.engine
  rw [engine] at buffer
  simp [Engine.reset] at buffer

theorem Quiet.not_dest {d : DestLine} (dest : s.engine.dest = some d) : False := by
  have engine : s.engine = Engine.reset := quiet.engine
  rw [engine] at dest
  cases dest

/-- The parts that RESETTING leaves stay. -/
theorem Quiet.of_same {w : Vital} (streams : w.streams = s.streams) (engine : w.engine = s.engine)
    (claims : w.claims = s.pool.claims) (entries : ∀ e ∈ w.entries, e ∈ s.post.entries) : Quiet w :=
  ⟨fun n => (congrArg (fun x : Vector Stream 8 => x[n]) streams).trans (quiet.closed n), engine.trans quiet.engine,
    fun c => (congrArg (fun x : Vector (Option Claim) 9 => x[c]) claims).trans (quiet.noClaim c),
    fun e mem => quiet.retiring e (entries e mem)⟩

/-- No request is presented while all is quiet. -/
theorem Quiet.not_granted {p : Fin 10} {q : Request} (told : Granted s p q w) : False := by
  cases told with
  | entry _ read => exact quiet.not_read read
  | post _ oldest =>
    obtain ⟨older, newer, split, waiting, -⟩ := retireOldest_split oldest
    have mem := split ▸ (List.mem_append_cons_self : _ ∈ older ++ _ :: newer)
    cases (quiet.retiring _ mem).symm.trans waiting
  | buffer _ held => exact quiet.not_buffer held

/-- Without requesters no claim is made. -/
theorem Quiet.claimList_none (c : Fin 9) : s.claimList[c] = none := by
  cases made : s.claimList[c] with
  | none => rfl
  | some x =>
    exfalso
    have claim : s.claimOf c = some x := by
      rw [← made]
      simp [State.claimList]
    unfold State.claimOf at claim
    split at claim
    · next below =>
      have closed : s.streams[c.val] = .closed := quiet.closed ⟨c.val, below⟩
      rw [closed] at claim
      cases claim
    · rw [show s.engine = Engine.reset from quiet.engine] at claim
      cases claim

theorem quiet_change (resetting : s.port.state = .resetting) (stays : t.port.state = .resetting) (h : Change s t) :
    Quiet (vital t) := by
  cases h with
  | aside h => exact quiet.of_same h.streams h.engine h.claims fun e mem => h.entries ▸ mem
  | tagAll =>
    refine ⟨quiet.closed, quiet.engine, quiet.noClaim, fun e mem => ?_⟩
    obtain ⟨x, old, rfl⟩ := List.mem_map.mp mem
    exact quiet.retiring x old
  | @stream n c awake =>
    obtain rfl : c = .closed := (awake resetting).elim (absurd (quiet.closed n)) id
    rw [setStream_self (quiet.closed n)]
    exact quiet
  | letGo read => exact (quiet.not_read read).elim
  | append read => exact (quiet.not_read read).elim
  | gather write => exact (quiet.not_write write).elim
  | dropAssembly write => exact (quiet.not_write write).elim
  | fill => exact quiet.of_same rfl rfl rfl fun _ mem => mem
  | postAssembly write => exact (quiet.not_write write).elim
  | postDest dest => exact (quiet.not_dest dest).elim
  | engine awake => exact absurd quiet.engine (awake resetting)
  | dropBuffer buffer => exact (quiet.not_buffer buffer).elim
  | dropDest dest => exact (quiet.not_dest dest).elim
  | takeSource claim => exact (quiet.not_claim claim).elim
  | takeDest claim => exact (quiet.not_claim claim).elim
  | claims => exact ⟨quiet.closed, quiet.engine, quiet.claimList_none, quiet.retiring⟩
  | unclaim c =>
    refine ⟨quiet.closed, quiet.engine, fun d => ?_, quiet.retiring⟩
    cases left : (unclaimed s c).pool.claims[d] with
    | none => exact left
    | some y => exact (quiet.not_claim (unclaimed_claims left).2).elim
  | grant presented => exact (quiet.not_granted (vital_grantRequest presented)).elim
  | returnDiscarded =>
    rw [vital_released]
    exact quiet.of_same rfl rfl rfl fun _ mem => mem
  | returnEntry _ _ _ _ _ read => exact (quiet.not_read read).elim
  | @returnBuffer b o =>
    rw [vital_released, vital_bufferReturn]
    refine ⟨quiet.closed, ?_, quiet.noClaim, quiet.retiring⟩
    change { s.engine with buffers := s.engine.buffers.map (Option.map (SourceBuffer.fill o.slot)) } = Engine.reset
    rw [show s.engine = Engine.reset from quiet.engine]
    simp [Engine.reset]
  | returnLost =>
    rw [vital_released]
    exact quiet.of_same rfl rfl rfl fun _ mem => mem
  | store =>
    rw [vital_stored]
    exact quiet.of_same rfl rfl rfl fun _ mem => List.mem_of_mem_filter mem
  | enterResetting => exact quiet_reset s
  | fall =>
    obtain ⟨m, d, frame⟩ := fall_frame s
    rw [frame]
    exact quiet.of_same rfl rfl rfl fun _ mem => mem
  | rise => cases stays

end

theorem resettingQuiet_change (h : Change s t) (lawful : ResettingQuiet s) : ResettingQuiet t := by
  refine (resettingQuiet_iff t).mpr fun stays => ?_
  by_cases resetting : s.port.state = .resetting
  · exact quiet_change ((resettingQuiet_iff s).mp lawful resetting) resetting stays h
  · have kept {f : Frame} (h : frameOf (vital t) = f) (same : f.command = s.port.state) : Quiet (vital t) :=
      absurd (same.symm.trans ((congrArg Frame.command h).symm.trans stays)) resetting
    cases frameChange h with
    | calm h => exact kept h rfl
    | aside h => exact absurd (h.command stays) resetting
    | owned _ _ _ h => exact kept h rfl
    | returned _ h => exact kept h rfl
    | store _ h => exact kept h rfl
    | enterResetting h => exact h ▸ quiet_reset s
    | fall h =>
      subst h
      obtain ⟨m, d, frame⟩ := fall_frame s
      rw [frame] at stays
      exact absurd stays resetting
    | rise h =>
      subst h
      cases stays

end Sys2Proof.Proofs.SlotLaws

/-! PROOFS. Coherence (R87): every FILLED read-ahead entry keeps the current value through every change, by patch-on-accept,
merge-on-return, and the entries that an accepted post waits in and retires from. -/

namespace Sys2Proof.Proofs.CoherenceLaw

open Sys2Proof Sys2Proof.Machine Sys2Proof.Safety Sys2Proof.Laws
open Sys2Proof.Proofs.LinePool Sys2Proof.Proofs.Coherence Sys2Proof.Proofs.Changes Sys2Proof.Proofs.StreamChanges
open Sys2Proof.Proofs.BankChanges Sys2Proof.Proofs.BankLaws Sys2Proof.Proofs.QueueLaws Sys2Proof.Proofs.SlotMoves
open Sys2Proof.Proofs.ActionChanges Sys2Proof.Proofs.PinReset Sys2Proof.Proofs.StepChanges Sys2Proof.Proofs.SlotChanges
open Sys2Proof.Proofs.Tasks Sys2Proof.Proofs.SlotLaws Sys2Proof.Proofs.Grants Sys2Proof.Proofs.Sequencing

variable {s t : State} {n : StreamId} {k : SlotId} {b : BankId} {o : OwnerRecord}

/-! ### FILLED entries and the current value -/

/-- An entry stands FILLED in a read stream. -/
def Landed (s : State) (e : ReadEntry) : Prop := e.state = .filled ∧ ∃ n : StreamId, e ∈ s.streams[n].entries

/-- The entry's bytes are the current value of its line. -/
def Current (s : State) (e : ReadEntry) : Prop := ∀ i : Fin 16, (s.bytesOf e.slot)[i] = s.currentValue (e.line + i.val)

theorem filledIsCurrent_iff (s : State) : FilledIsCurrent s ↔ ∀ e, Landed s e → Current s e := by
  constructor
  · rintro h e ⟨filled, n, mem⟩
    obtain ⟨r, read, mem⟩ := mem_entries.mp mem
    exact h n r e read mem filled
  · exact fun h n r e read mem filled => h e ⟨filled, n, mem_entries.mpr ⟨r, read, mem⟩⟩

theorem landed_of_streams {e : ReadEntry} (streams : t.streams = s.streams) (h : Landed t e) : Landed s e := by
  obtain ⟨filled, n, mem⟩ := h
  exact ⟨filled, n, streams ▸ mem⟩

/-- One stream's context is set, and no entry of it is newly FILLED. -/
theorem landed_of_set {c : Stream} {e : ReadEntry} (streams : t.streams = s.streams.set n.val c)
    (kept : ∀ x ∈ c.entries, x.state = .filled → x ∈ s.streams[n].entries) (h : Landed t e) : Landed s e := by
  obtain ⟨filled, m, mem⟩ := h
  rw [streams] at mem
  by_cases here : m = n
  · subst here
    exact ⟨filled, m, kept e (by simpa using mem) filled⟩
  · have apart : n.val ≠ m.val := fun same => here (Fin.ext same.symm)
    exact ⟨filled, m, by simpa [apart] using mem⟩

/-- The current value depends on the posts, the memory and the bytes of the posts alone. -/
theorem currentValue_congr (entries : t.post.entries = s.post.entries) (memory : t.memory = s.memory)
    (bytes : ∀ x ∈ s.post.entries, t.bytesOf x.slot = s.bytesOf x.slot) (a : Nat) : t.currentValue a = s.currentValue a := by
  have find (st : PostState) : entryFor t.post st (lineOf a) = entryFor s.post st (lineOf a) := by
    rw [entryFor, entries, entryFor]
  have same (st : PostState) (v : Byte) : t.overlaidBy st a v = s.overlaidBy st a v :=
    overlaidBy_congr (find st) (fun x hx => bytes x (entryFor_mem hx).1) v
  rw [currentValue_eq, same, same, memory, currentValue_eq]

/-- The slots of the entries and of the posts. -/
def Read (s : State) (k : SlotId) : Prop := (∃ n, ownerOf (vital s) k = .read n) ∨ ownerOf (vital s) k = .post

theorem read_of_landed {e : ReadEntry} (slots : SlotsLawful s) (h : Landed s e) : Read s e.slot := by
  obtain ⟨-, n, mem⟩ := h
  obtain ⟨r, read, mem⟩ := mem_entries.mp mem
  exact .inl ⟨n, slots.readOwned n r e read mem⟩

theorem read_of_post {x : PostEntry} (slots : SlotsLawful s) (mem : x ∈ s.post.entries) : Read s x.slot :=
  .inr (slots.postOwned x mem)

/-- No entry lands, and neither its bytes nor the current value change. -/
theorem current_kept (slots : SlotsLawful s) (lands : ∀ e, Landed t e → Landed s e)
    (bytes : ∀ j, Read s j → t.bytesOf j = s.bytesOf j) (current : ∀ a, t.currentValue a = s.currentValue a)
    (filled : FilledIsCurrent s) : FilledIsCurrent t := by
  refine (filledIsCurrent_iff t).mpr fun e h i => ?_
  have before := lands e h
  rw [bytes e.slot (read_of_landed slots before), current]
  exact (filledIsCurrent_iff s).mp filled e before i

/-- No entry lands, and the posts, the memory and the bytes that are read stay. -/
theorem current_calm (slots : SlotsLawful s) (lands : ∀ e, Landed t e → Landed s e)
    (bytes : ∀ j, Read s j → t.bytesOf j = s.bytesOf j) (entries : t.post.entries = s.post.entries)
    (memory : t.memory = s.memory) (filled : FilledIsCurrent s) : FilledIsCurrent t :=
  current_kept slots lands bytes
    (currentValue_congr entries memory fun x mem => bytes x.slot (read_of_post slots mem)) filled

theorem bytesOf_of_vital {v : Vital} (h : vital t = v) (k : SlotId) : t.bytesOf k = v.slots[k].bytes :=
  congrArg (fun v : Vital => v.slots[k].bytes) h

theorem memory_of_vital {v : Vital} (h : vital t = v) : t.memory = v.memory := congrArg Vital.memory h

theorem bytes_ownIn (v : Vital) (k : SlotId) (p : Owner) (j : SlotId) : (ownIn v k p).slots[j].bytes = v.slots[j].bytes := by
  unfold ownIn withSlots
  by_cases h : j = k
  · subst h
    simp
  · have apart : k.val ≠ j.val := fun same => h (Fin.ext same.symm)
    simp [apart]

theorem bytes_letGoIn (v : Vital) (e : ReadEntry) (j : SlotId) : (letGoIn v e).slots[j].bytes = v.slots[j].bytes := by
  by_cases flying : e.state = .inFlight
  · rw [letGoIn_flying flying]
    exact bytes_ownIn v e.slot .discard j
  · rw [letGoIn_landed flying]
    exact bytes_ownIn v e.slot .free j

theorem eq_of_length_le_one {α : Type} {l : List α} {x y : α} (one : l.length ≤ 1) (hx : x ∈ l) (hy : y ∈ l) : x = y := by
  match l, one with
  | [z], _ => exact (List.mem_singleton.mp hx).trans (List.mem_singleton.mp hy).symm

/-! ### An accepted post (R88) -/

section
variable (slots : SlotsLawful s)
include slots

theorem postsApart (incoming : ∀ n, ownerOf (vital s) k ≠ .read n) (other : ownerOf (vital s) k ≠ .post) : PostsApart s k where
  incoming e mem same := other (same ▸ slots.postOwned e mem)
  apart := slots.postApart
  filled n r e read mem _ := by
    have owned : ownerOf (vital s) e.slot = .read n := slots.readOwned n r e read mem
    refine ⟨fun same => incoming n (same ▸ owned), fun x hx same => ?_⟩
    have posted : ownerOf (vital s) x.slot = .post := slots.postOwned x hx
    rw [same, owned] at posted
    cases posted

/-- The bytes of a FILLED entry after an acceptance: the marked bytes of a post for its line (R88). -/
theorem bytes_acceptPost {line : Nat} {mask : ByteMask} {e : ReadEntry} (apart : PostsApart s k) (landed : Landed s e)
    (taken : s.acceptPost line mask k = some t) :
    t.bytesOf e.slot = if e.line = line then overlay (s.bytesOf e.slot) (s.bytesOf k) mask else s.bytesOf e.slot := by
  obtain ⟨filled, n, mem⟩ := landed
  obtain ⟨r, read, mem⟩ := mem_entries.mp mem
  have only {line' : Nat} (h : FilledFor s line' e.slot) : line' = e.line := by
    obtain ⟨m, q, x, read', mem', rfl, -, same⟩ := h
    have owned : ownerOf (vital s) e.slot = .read n := slots.readOwned n r e read mem
    have owned' : ownerOf (vital s) x.slot = .read m := slots.readOwned m q x read' mem'
    rw [same, owned] at owned'
    cases owned'
    cases read.symm.trans read'
    rw [entry_eq slots read mem' mem same]
  obtain ⟨-, posts⟩ := apart.filled n r e read mem filled
  split
  · next here =>
    have forLine : FilledFor s line e.slot := ⟨n, r, e, read, mem, here, filled, rfl⟩
    rcases acceptPost_cases taken with ⟨x, waits, rfl⟩ | ⟨-, -, rfl⟩
    · have apartFrom : e.slot ≠ x.slot := fun same => posts x (entryFor_mem waits).1 same.symm
      rw [State.mergePost, bytesOf_patchFilled_of_filled (by exact forLine), bytesOf_release, bytesOf_withPost,
        bytesOf_fillSlot_other _ _ apartFrom]
    · rw [State.appendPost, bytesOf_patchFilled_of_filled (by exact forLine), bytesOf_own, bytesOf_withPost]
  · next other =>
    have notFor : ¬ FilledFor s line e.slot := fun h => other (only h).symm
    rcases acceptPost_cases taken with ⟨x, waits, rfl⟩ | ⟨-, -, rfl⟩
    · rw [bytesOf_mergePost notFor, if_neg fun same => posts x (entryFor_mem waits).1 same.symm]
    · rw [bytesOf_appendPost notFor]

/-- An accepted post patches the FILLED entries as it changes the current value (R86, R88). -/
theorem current_acceptPost {line : Nat} {mask : ByteMask} {u : State} (lines : LinesAligned s) (aligned : line % 16 = 0)
    (apart : PostsApart s k) (taken : s.acceptPost line mask k = some t) (lands : ∀ e, Landed u e → Landed s e)
    (bytes : ∀ j, u.bytesOf j = t.bytesOf j) (current : ∀ a, u.currentValue a = t.currentValue a)
    (filled : FilledIsCurrent s) : FilledIsCurrent u := by
  refine (filledIsCurrent_iff u).mpr fun e h i => ?_
  have before := lands e h
  have old := (filledIsCurrent_iff s).mp filled e before i
  obtain ⟨marked, others⟩ := currentValue_acceptPost aligned apart taken
  rw [bytes, current, bytes_acceptPost slots apart before taken]
  split
  · next here =>
    subst here
    rw [marked i, getElem_overlay, old]
  · next other =>
    obtain ⟨-, n, mem⟩ := before
    obtain ⟨r, read, mem⟩ := mem_entries.mp mem
    rw [others _ (by rwa [lineOf_add ((lines.reads n r read).2 e mem) i]), old]

theorem current_postAssembly {x : WriteStream} {a : Assembly} {mask : ByteMask} {c : Stream} (lines : LinesAligned s)
    (write : s.streams[n] = .write x) (assembly : x.assembly = some a) (taken : s.acceptPost a.line mask a.slot = some t)
    (empty : StreamEmpty c) (filled : FilledIsCurrent s) : FilledIsCurrent (t.setStream n c) := by
  have owner : ownerOf (vital s) a.slot = .assembly n := slots.assemblyOwned n x a write assembly
  refine current_acceptPost slots lines (lines.assemblies n x a write assembly) (postsApart slots ?_ ?_) taken
    (fun e h => ?_) (fun _ => rfl) (currentValue_congr rfl rfl fun _ _ => rfl) filled
  · rw [owner]
    exact nofun
  · rw [owner]
    exact nofun
  · refine landed_of_set (c := c) (congrArg (fun y : Vector Stream 8 => y.set n.val c) (streams_acceptPost taken)) ?_ h
    rw [empty.entries]
    exact nofun

theorem current_postDest {d : DestLine} {line : Nat} {mask : ByteMask} {e : Engine} (lines : LinesAligned s)
    (dest : s.engine.dest = some d) (aligned : line % 16 = 0) (taken : s.acceptPost line mask d.slot = some t)
    (filled : FilledIsCurrent s) : FilledIsCurrent (t.withEngine e) := by
  have owner : ownerOf (vital s) d.slot = .jobDest := slots.destOwned d dest
  refine current_acceptPost slots lines aligned (postsApart slots ?_ ?_) taken
    (fun e h => landed_of_streams (streams_acceptPost taken) h) (fun _ => rfl)
    (currentValue_congr rfl rfl fun _ _ => rfl) filled
  · rw [owner]
    exact nofun
  · rw [owner]
    exact nofun

omit slots in
/-- A slot that no entry and no post holds is filled. -/
theorem bytes_fillSlot_other {l : Line} {j : SlotId} (unread : ¬ Read s k) (read : Read s j) :
    (s.fillSlot k l).bytesOf j = s.bytesOf j := by
  refine bytesOf_fillSlot_other s l fun same => unread (same ▸ read)

omit slots in
omit slots in
theorem currentValue_tagAll (s : State) (a : Nat) : (s.withPost s.post.tagAll).currentValue a = s.currentValue a := by
  have find (st : PostState) : entryFor s.post.tagAll st (lineOf a) =
      (entryFor s.post st (lineOf a)).map fun e => { e with tag := true } := by
    rw [entryFor, PostQueue.tagAll, List.find?_map]
    rfl
  have same (st : PostState) (v : Byte) : (s.withPost s.post.tagAll).overlaidBy st a v = s.overlaidBy st a v := by
    rw [overlaidBy_eq, overlaidBy_eq, withPost_post, find]
    cases entryFor s.post st (lineOf a) <;> rfl
  rw [currentValue_eq, same, same, currentValue_eq]
  rfl

variable (operations : OperationsLawful s)

section
include operations

omit slots in
/-- No post retires for a line whose bank has no owner, or a fetch's (R79). -/
theorem waiting_of_bank {line : Nat} (idle : ∀ p, s.seq.banks[bankOf line].owner = some p → p.op ≠ .store) :
    ∀ x ∈ s.post.entries, x.line = line → x.state = .waiting := by
  intro x mem here
  subst here
  cases state : x.state with
  | waiting => rfl
  | retiring =>
    obtain ⟨p, owner, op, -⟩ := operations.retiringUnderWay x mem state
    exact absurd op (idle p owner)

/-- A store completes (R86). -/
theorem current_store (lines : LinesAligned s) (canonical : MemoryCanonical s) (owner : s.seq.banks[b].owner = some o)
    (op : o.op = .store) (filled : FilledIsCurrent s) :
    FilledIsCurrent (((s.store o).removeStored o.slot).releaseBank b) := by
  obtain ⟨e, mem, retiring, line, slot, mask⟩ := operations.storeServed b o owner op
  have released : ∀ a, (((s.store o).removeStored o.slot).releaseBank b).currentValue a =
      ((s.store o).removeStored o.slot).currentValue a := by
    refine currentValue_congr ?_ ?_ fun x _ => ?_
    · exact congrArg Vital.entries (vital_releaseBank _ b)
    · exact congrArg Vital.memory (vital_releaseBank _ b)
    · exact congrArg (fun v : Vital => v.slots[x.slot].bytes) (vital_releaseBank _ b)
  refine current_kept slots (fun e h => landed_of_streams ?_ h) (fun j _ => ?_) (fun a => ?_) filled
  · exact congrArg Vital.streams (vital_stored s b o)
  · exact (congrArg (fun v : Vital => v.slots[j].bytes) (vital_stored s b o)).trans (bytes_ownIn _ _ _ _)
  · rw [released]
    refine currentValue_store canonical mem retiring line.symm mask.symm slot.symm (lines.posts e mem)
      (fun x hx state same => ?_) a
    rcases same with sameSlot | sameLine
    · exact post_eq_of_slot slots.postApart hx mem sameSlot
    · have one := oneRetiring slots operations e.line
      have hxIn : x ∈ s.post.entries.filter fun y => y.line = e.line ∧ y.state = .retiring :=
        List.mem_filter.mpr ⟨hx, by simp [sameLine, state]⟩
      have heIn : e ∈ s.post.entries.filter fun y => y.line = e.line ∧ y.state = .retiring :=
        List.mem_filter.mpr ⟨mem, by simp [retiring]⟩
      exact eq_of_length_le_one one hxIn heIn

/-- The oldest post begins to retire (R86). -/
theorem current_retires {p : Fin 10} {q : Request} (one : OneWaitingPerLine s) (presented : s.requestAt p = some q)
    (free : s.seq.banks[bankOf q.line].owner = none) (filled : FilledIsCurrent s) : FilledIsCurrent (s.grantRequest p q) := by
  have told := vital_grantRequest presented
  generalize form : vital (s.grantRequest p q) = v at told
  cases told with
  | @entry n r e position read =>
    refine current_calm slots (fun e h => ?_) (fun j _ => bytesOf_of_vital form j) (entries_of_vital form)
      (memory_of_vital form) filled
    refine landed_of_set (streams_of_vital form) (fun x hx filled => ?_) h
    obtain ⟨y, hy, rfl⟩ := List.mem_map.mp hx
    split at filled
    · cases filled
    · next kept =>
      rw [if_neg kept, read]
      exact hy
  | @post e position oldest op line =>
    refine current_kept slots (fun e h => landed_of_streams (streams_of_vital form) h) (fun j _ => bytesOf_of_vital form j)
      (fun a => ?_) filled
    have same : (s.grantRequest p q).currentValue a = (s.withPost s.post.retireOldest).currentValue a :=
      currentValue_congr (s := s.withPost s.post.retireOldest) (entries_of_vital form) (memory_of_vital form)
        (fun x _ => bytesOf_of_vital form x.slot) a
    rw [same]
    refine currentValue_retireOldest one oldest (line ▸ waiting_of_bank operations fun x owner => ?_) a
    cases free.symm.trans owner
  | buffer =>
    exact current_calm slots (fun e h => landed_of_streams (streams_of_vital form) h) (fun j _ => bytesOf_of_vital form j)
      (entries_of_vital form) (memory_of_vital form) filled

omit slots operations in
/-- What is FILLED after a return was FILLED before, or has just landed. -/
theorem mem_returned {m : StreamId} {r : ReadStream} {x : ReadEntry} (read : s.streams[n] = .read r)
    (isFilled : x.state = .filled)
    (mem : x ∈ (s.streams.set n.val (.read (r.passEntry k .inFlight .filled)))[m].entries) :
    (∃ y ∈ r.queue, y.slot = k ∧ y.state = .inFlight ∧ x = { y with state := .filled }) ∨ x ∈ s.streams[m].entries := by
  by_cases here : m = n
  · subst here
    have passed : x ∈ (Stream.read (r.passEntry k .inFlight .filled)).entries := by simpa using mem
    obtain ⟨y, hy, rfl⟩ := List.mem_map.mp passed
    by_cases asks : y.slot = k ∧ y.state = .inFlight
    · exact .inl ⟨y, hy, asks.1, asks.2, if_pos asks⟩
    · rw [if_neg asks, read]
      exact .inr hy
  · have apart : n.val ≠ m.val := fun same => here (Fin.ext same.symm)
    exact .inr (by simpa [apart] using mem)

/-- A fetch returns to its entry with the merged line (R86, R90). -/
theorem current_returnEntry {r : ReadStream} (lines : LinesAligned s) (owner : s.seq.banks[b].owner = some o)
    (op : o.op = .fetch) (kept : o.discard = false) (position : o.position.val = n.val) (read : s.streams[n] = .read r)
    (filled : FilledIsCurrent s) : FilledIsCurrent
      (released ((s.fillSlot o.slot (returned s o)).setStream n (.read (r.passEntry o.slot .inFlight .filled))) b) := by
  obtain ⟨work, -, -⟩ := (operationsLawful_iff s).mp operations
  obtain ⟨e, mem, flying, line, slot⟩ := served_entry work owner op kept position
  rw [entries_read read] at mem
  have owned : ownerOf (vital s) o.slot = .read n := slot ▸ slots.readOwned n r e read mem
  have form := vital_released ((s.fillSlot o.slot (returned s o)).setStream n (.read (r.passEntry o.slot .inFlight .filled))) b
  have bytes (j : SlotId) := (bytesOf_of_vital form j).trans (bytesOf_fillSlot s o.slot (returned s o) j)
  have current (a : Nat) : (released ((s.fillSlot o.slot (returned s o)).setStream n
      (.read (r.passEntry o.slot .inFlight .filled))) b).currentValue a = s.currentValue a := by
    refine currentValue_congr (s := s) (entries_of_vital form) (memory_of_vital form) (fun x hx => ?_) a
    rw [bytes, if_neg]
    intro same
    have posted : ownerOf (vital s) x.slot = .post := slots.postOwned x hx
    rw [same, owned] at posted
    cases posted
  have streams : (released ((s.fillSlot o.slot (returned s o)).setStream n (.read (r.passEntry o.slot .inFlight .filled)))
      b).streams = s.streams.set n.val (.read (r.passEntry o.slot .inFlight .filled)) := streams_of_vital form
  refine (filledIsCurrent_iff _).mpr fun x ⟨isFilled, m, hx⟩ i => ?_
  have from_ := mem_returned read isFilled (streams ▸ hx)
  rw [bytes, current]
  by_cases isReturned : x.slot = o.slot
  · have here : x.line = o.line := by
      rcases from_ with ⟨y, hy, slotY, -, rfl⟩ | old
      · rw [← line, ← entry_eq slots read hy mem (slotY.trans slot.symm)]
      · obtain ⟨q, read', inQueue⟩ := mem_entries.mp old
        have owned' : ownerOf (vital s) x.slot = .read m := slots.readOwned m q x read' inQueue
        rw [isReturned, owned] at owned'
        cases owned'
        cases read.symm.trans read'
        rw [← line, entry_eq slots read inQueue mem (isReturned.trans slot.symm)]
    have idle (p : OwnerRecord) (hp : ownersOf (vital s) (bankOf o.line) = some p) : p.op ≠ .store := by
      have here : ownersOf (vital s) b = some o := owner
      rw [operations.ownBank b o owner, here] at hp
      cases hp
      rw [op]
      decide
    rw [if_pos isReturned, here]
    exact mergeOnReturn_eq_currentValue (line ▸ (lines.reads n r read).2 e mem) (waiting_of_bank operations idle) i
  · rw [if_neg isReturned]
    rcases from_ with ⟨y, hy, slotY, -, rfl⟩ | old
    · exact absurd slotY isReturned
    · exact (filledIsCurrent_iff s).mp filled x ⟨isFilled, m, old⟩ i

omit slots operations in
theorem cutStore_owner {r : Bank} (h : r.cutStore = some o) : r.owner = some o ∧ (r.state = .writing ∨ r.state = .recovering) := by
  unfold Bank.cutStore at h
  split at h
  · next writing => exact ⟨h, .inl writing⟩
  · next recovering => exact ⟨h, .inr recovering⟩
  all_goals cases h

/-- The cut-off stores write what their RETIRING entries show already (R83, R85). -/
theorem currentValue_fall (lines : LinesAligned s) (canonical : MemoryCanonical s) (a : Nat) :
    s.fall.currentValue a = s.currentValue a := by
  obtain ⟨m, d, frame⟩ := fall_frame s
  have memory : s.fall.memory = m := by rw [frame]
  have overlay (st : PostState) (v : Byte) : s.fall.overlaidBy st a v = s.overlaidBy st a v := by
    rw [frame]
    rfl
  rw [currentValue_eq, overlay, overlay, currentValue_eq]
  rcases read_fall canonical a with same | ⟨b, o, i, store, address, marked, written⟩
  · rw [same]
  · obtain ⟨owner, busy⟩ := cutStore_owner store
    obtain ⟨p, owner', op⟩ := operations.writingStores b busy
    cases owner.symm.trans owner'
    obtain ⟨e, mem, retiring, line, slot, mask⟩ := operations.storeServed b o owner op
    have aligned : o.line % 16 = 0 := line ▸ lines.posts e mem
    have found : entryFor s.post .retiring (lineOf a) = some e := by
      rw [address, lineOf_add aligned i, ← line, ← retiring]
      refine entryFor_of_only mem fun x hx hl hs => ?_
      refine eq_of_length_le_one (oneRetiring slots operations e.line) ?_ ?_
      · exact List.mem_filter.mpr ⟨hx, by simp [hl, hs, retiring]⟩
      · exact List.mem_filter.mpr ⟨mem, by simp [retiring]⟩
    have shown : e.mask.getLsbD (offsetOf a) = true := by rw [address, offsetOf_add aligned i, mask, marked]
    rw [overlaidBy_some found, overlaidBy_some found, if_pos shown, if_pos shown]

end

end

/-! ### Every change -/

theorem releaseEntry_bytes (s : State) (e : ReadEntry) (j : SlotId) : (s.releaseEntry e).bytesOf j = s.bytesOf j :=
  (bytesOf_of_vital (vital_releaseEntry s e) j).trans (bytes_letGoIn _ _ _)

/-- A FILLED entry keeps the current value through every change. -/
theorem filled_change (h : Change s t) (lawful : Coherent s) : FilledIsCurrent t := by
  obtain ⟨slots, operations, one, lines, canonical, filled⟩ := lawful
  cases h with
  | aside h =>
    exact current_calm slots (fun e => landed_of_streams h.streams) (fun j _ =>
      congrArg (fun x : Vector Slot 48 => x[j].bytes) h.slots) h.entries h.memory filled
  | tagAll => exact current_kept slots (fun e => landed_of_streams rfl) (fun _ _ => rfl) (currentValue_tagAll s) filled
  | @stream n c _ turns =>
    refine current_calm slots (fun e => landed_of_set (c := c) rfl fun x hx _ => ?_) (fun _ _ => rfl) rfl rfl filled
    rwa [← turns.entries]
  | @letGo n r e rest read queue =>
    refine current_calm slots (fun x => landed_of_set (n := n) (c := .read { r with queue := rest }) ?_ fun y hy _ => ?_)
      (fun j _ => releaseEntry_bytes s e j) (entries_of_vital (releaseEntry_frame s e))
      (memory_of_vital (releaseEntry_frame s e)) filled
    · exact congrArg (fun x : Vector Stream 8 => x.set n.val _) (streams_releaseEntry s e)
    · rw [read, Stream.entries, queue]
      exact List.mem_cons_of_mem e hy
  | @append n r k read =>
    refine current_calm slots (fun x => landed_of_set (c := .read (r.append k)) rfl fun y hy isFilled => ?_)
      (fun j _ => bytesOf_own s k _ j) rfl rfl filled
    rw [read]
    rcases List.mem_append.mp hy with old | new
    · exact old
    · rw [List.mem_singleton.mp new] at isFilled
      cases isFilled
  | @gather n w k =>
    exact current_calm slots (fun x => landed_of_set (c := .write (w.withAssembly k)) rfl nofun)
      (fun j _ => bytesOf_own s k _ j) rfl rfl filled
  | @dropAssembly n w a c _ _ empty =>
    refine current_calm slots (fun x => landed_of_set (c := c) rfl ?_) (fun j _ => bytesOf_release s a.slot j) rfl rfl filled
    rw [empty.entries]
    exact nofun
  | @fill o k l held kind =>
    have owned : ownerOf (vital s) k = o :=
      owner_of_holders ((slotsLawful_iff s).mp slots) (holderSlots_eq s o ▸ held)
    have unread : ¬ Read s k := by
      rintro (⟨n, reads⟩ | posts)
      · cases (owned.symm.trans reads)
        obtain ⟨m, same⟩ | same := kind <;> cases same
      · cases (owned.symm.trans posts)
        obtain ⟨m, same⟩ | same := kind <;> cases same
    exact current_calm slots (fun x => landed_of_streams rfl) (fun j => bytes_fillSlot_other unread) rfl rfl filled
  | postAssembly write assembly taken empty => exact current_postAssembly slots lines write assembly taken empty filled
  | postDest dest aligned taken => exact current_postDest slots lines dest (aligned (lines.destination _ dest)) taken filled
  | engine => exact current_calm slots (fun x => landed_of_streams rfl) (fun _ _ => rfl) rfl rfl filled
  | @dropBuffer k x =>
    exact current_calm slots (fun x => landed_of_streams rfl) (fun j _ => bytesOf_release s x.slot j) rfl rfl filled
  | @dropDest d =>
    exact current_calm slots (fun x => landed_of_streams rfl) (fun j _ => bytesOf_release s d.slot j) rfl rfl filled
  | @takeSource c x i k =>
    exact current_calm slots (fun x => landed_of_streams rfl) (fun j _ => bytesOf_own (unclaimed s c) k _ j) rfl rfl filled
  | @takeDest c x d =>
    exact current_calm slots (fun x => landed_of_streams rfl) (fun j _ => bytesOf_own (unclaimed s c) d.slot _ j) rfl rfl filled
  | claims => exact current_calm slots (fun x => landed_of_streams rfl) (fun _ _ => rfl) rfl rfl filled
  | unclaim => exact current_calm slots (fun x => landed_of_streams rfl) (fun _ _ => rfl) rfl rfl filled
  | @grant p q presented eligible =>
    exact current_retires slots operations one presented ((eligible_iff s q).mp eligible).1 filled
  | @returnDiscarded b o =>
    have form := vital_released (s.release o.slot) b
    exact current_calm slots (fun x => landed_of_streams (streams_of_vital form))
      (fun j _ => (bytesOf_of_vital form j).trans (bytesOf_release s o.slot j)) (entries_of_vital form)
      (memory_of_vital form) filled
  | returnEntry _ owner op kept position read =>
    exact current_returnEntry slots operations lines owner op kept position read filled
  | @returnBuffer b o _ owner op kept position =>
    obtain ⟨work, -, -⟩ := (operationsLawful_iff s).mp operations
    obtain ⟨-, i, y, held, -, -, slot⟩ := served_buffer work owner op kept position
    have owned : ownerOf (vital s) o.slot = .jobSource i := slot ▸ slots.sourceOwned i y held
    have unread : ¬ Read s o.slot := by
      rintro (⟨n, reads⟩ | posts)
      · cases owned.symm.trans reads
      · cases owned.symm.trans posts
    have form := vital_released (s.bufferReturn o.slot (returned s o)) b
    exact current_calm slots (fun x => landed_of_streams (streams_of_vital form))
      (fun j read => (bytesOf_of_vital form j).trans (bytes_fillSlot_other (l := returned s o) unread read))
      (entries_of_vital form) (memory_of_vital form) filled
  | @returnLost b =>
    have form := vital_released s b
    exact current_calm slots (fun x => landed_of_streams (streams_of_vital form)) (fun j _ => bytesOf_of_vital form j)
      (entries_of_vital form) (memory_of_vital form) filled
  | store _ owner op => exact current_store slots operations lines canonical owner op filled
  | enterResetting =>
    refine (filledIsCurrent_iff _).mpr fun e ⟨_, n, mem⟩ => ?_
    rw [streams_of_vital (vital_enterResetting s)] at mem
    simp [Stream.entries] at mem
  | fall =>
    obtain ⟨m, d, frame⟩ := fall_frame s
    refine current_kept slots (fun e => landed_of_streams ?_) (fun j _ => ?_)
      (currentValue_fall slots operations lines canonical) filled
    · rw [frame]
    · rw [frame]
      rfl
  | rise =>
    refine (filledIsCurrent_iff _).mpr fun e ⟨_, n, mem⟩ => ?_
    rw [(rise_vacant s).closed n] at mem
    cases mem

theorem coherent_change (h : Change s t) (lawful : Coherent s) : Coherent t where
  slots := slotsLawful_change h lawful.slots lawful.operations
  operations := operationsLawful_change h lawful.slots lawful.operations
  waiting := oneWaiting_change h lawful.waiting
  lines := linesAligned_change h lawful.lines
  memory := canonical_change h lawful.memory
  filled := filled_change h lawful

/-- Settles O59: each law is kept by every change, and a step is changes. -/
theorem everyStepKeepsQueueAndCounterLaws : Obligations.EveryStepKeepsQueueAndCounterLaws := by
  unfold Obligations.EveryStepKeepsQueueAndCounterLaws
  intro s t next
  refine ⟨fun ⟨queues, waiting, readAhead, debt⟩ => ?_, fun ⟨slots, operations⟩ => ?_, fun ⟨slots, operations, held⟩ => ?_,
    fun quiet => ?_, fun coherent => ?_⟩
  · exact ⟨step_keeps (fun _ _ => queues_change) next queues, step_keeps (fun _ _ => oneWaiting_change) next waiting,
      step_keeps (fun _ _ => readAhead_change) next readAhead, step_keeps (fun _ _ => debt_change) next debt⟩
  · obtain ⟨slots, operations⟩ := step_keeps (P := fun s => SlotsLawful s ∧ OperationsLawful s)
      (fun _ _ h lawful => ⟨slotsLawful_change h lawful.1 lawful.2, operationsLawful_change h lawful.1 lawful.2⟩) next
      ⟨slots, operations⟩
    exact ⟨slots, operations, oneRetiring slots operations⟩
  · exact (step_keeps (P := fun s => (SlotsLawful s ∧ OperationsLawful s) ∧ SlotsHeld s)
      (fun _ _ h lawful => ⟨⟨slotsLawful_change h lawful.1.1 lawful.1.2, operationsLawful_change h lawful.1.1 lawful.1.2⟩,
        slotsHeld_change h lawful.1.1 lawful.1.2 lawful.2⟩) next ⟨⟨slots, operations⟩, held⟩).2
  · exact step_keeps (fun _ _ => resettingQuiet_change) next quiet
  · exact step_keeps (fun _ _ => coherent_change) next coherent

end Sys2Proof.Proofs.CoherenceLaw

/-! PROOFS. The end of an event: its consequences as a run, the orders that it leaves, and what is left to do when none is. -/

namespace Sys2Proof.Proofs.EventEnd

open Sys2Proof Sys2Proof.Machine Sys2Proof.Safety Sys2Proof.Laws
open Sys2Proof.Proofs.Control Sys2Proof.Proofs.Grants Sys2Proof.Proofs.HeldPosts Sys2Proof.Proofs.ActionChanges
open Sys2Proof.Proofs.MoveEngine

variable {s t : State} {n : StreamId} {b : BankId} {α : Type}

/-! ### Orders (R106, R112) -/

theorem insertByKey_perm (key : α → Nat) (x : α) (l : List α) : (insertByKey key x l).Perm (x :: l) := by
  induction l with
  | nil => exact .refl _
  | cons y ys ih =>
    unfold insertByKey
    split
    · exact .refl _
    · exact (ih.cons y).trans (.swap x y ys)

theorem sortByKey_perm (key : α → Nat) (l : List α) : (sortByKey key l).Perm l := by
  induction l with
  | nil => exact .refl _
  | cons x xs ih => exact (insertByKey_perm key x _).trans (ih.cons x)

theorem insertByKey_ascending (key : α → Nat) (x : α) {l : List α} (h : l.Pairwise fun x y => key x ≤ key y) :
    (insertByKey key x l).Pairwise fun x y => key x ≤ key y := by
  induction l with
  | nil => exact List.pairwise_singleton _ x
  | cons y ys ih =>
    obtain ⟨first, later⟩ := List.pairwise_cons.mp h
    unfold insertByKey
    split
    · next below =>
      refine List.pairwise_cons.mpr ⟨fun z hz => ?_, h⟩
      rcases List.mem_cons.mp hz with rfl | hz
      · exact below
      · exact below.trans (first z hz)
    · next above =>
      refine List.pairwise_cons.mpr ⟨fun z hz => ?_, ih later⟩
      rcases (mem_insertByKey key x z ys).mp hz with rfl | hz
      · exact Nat.le_of_not_le above
      · exact first z hz

theorem sortByKey_ascending (key : α → Nat) (l : List α) : (sortByKey key l).Pairwise fun x y => key x ≤ key y := by
  induction l with
  | nil => exact List.Pairwise.nil
  | cons x xs ih => exact insertByKey_ascending key x ih

/-- Putting the members after the first n in order leaves the first n where they are. -/
theorem orderedAfter_sortAfter (n : Nat) (key : α → Nat) (l : List α) : OrderedAfter n key l (sortAfter n key l) := by
  have cut : (sortAfter n key l).take n = l.take n ∧ (sortAfter n key l).drop n = sortByKey key (l.drop n) := by
    unfold sortAfter
    rcases Nat.le_total n l.length with short | long
    · have first : (l.take n).length = n := List.length_take_of_le short
      exact ⟨List.take_left' first, List.drop_left' first⟩
    · simp [List.drop_eq_nil_of_le long, List.take_of_length_le long, sortByKey]
  exact ⟨cut.1, cut.2 ▸ sortByKey_perm key _, cut.2 ▸ sortByKey_ascending key _⟩

theorem placeCloseAll_frame (before s : State) : State.placeCloseAll before s =
    { s with seq := { s.seq with resetCloseAll := (State.placeCloseAll before s).seq.resetCloseAll } } := by
  rcases placeCloseAll_cases before s with ⟨-, -, h⟩ | ⟨-, h⟩ <;> rw [h]

theorem closeAllPlaced_placeCloseAll (before s : State) : CloseAllPlaced before s.seq.resetCloseAll
    (State.placeCloseAll before s).seq.resetCloseAll s.seq.due := by
  rcases placeCloseAll_cases before s with ⟨none, called, h⟩ | ⟨kept, h⟩ <;> rw [h]
  · exact ⟨fun _ _ => rfl, fun other => (other.elim (· none) called).elim⟩
  · exact ⟨fun none called => (kept.elim (· none) called).elim, fun _ => rfl⟩

/-! ### The consequences as a run (log entry 9) -/

theorem settleLoop_succ_eq (k : Nat) (s : State) : settleLoop (k + 1) s = match settleStep s with
    | some t => settleLoop k t
    | none => s := rfl

/-- The last consequence of one more. -/
theorem settleLoop_succ (k : Nat) (s : State) :
    settleLoop (k + 1) s = (settleStep (settleLoop k s)).getD (settleLoop k s) := by
  induction k generalizing s with
  | zero =>
    rw [settleLoop_succ_eq]
    cases next : settleStep s <;> simp [settleLoop, next]
  | succ k ih =>
    rw [settleLoop_succ_eq, settleLoop_succ_eq k s]
    cases next : settleStep s with
    | none => simp [next]
    | some t => exact ih t

/-- The run of the consequences ends with the fuel, or where none is left. -/
theorem settleLoop_run (fuel : Nat) (s : State) : ∃ count, settleLoop fuel s = settleLoop count s ∧
    (∀ k, k < count → settleStep (settleLoop k s) = some (settleLoop (k + 1) s)) ∧
    (count = fuel ∨ (count < fuel ∧ settleStep (settleLoop count s) = none)) := by
  induction fuel with
  | zero => exact ⟨0, rfl, fun k below => absurd below k.not_lt_zero, .inl rfl⟩
  | succ fuel ih =>
    obtain ⟨count, same, ran, ended⟩ := ih
    cases next : settleStep (settleLoop count s) with
    | none =>
      refine ⟨count, ?_, ran, .inr ⟨?_, next⟩⟩
      · rw [settleLoop_succ, same, next, Option.getD_none]
      · omega
    | some u =>
      obtain rfl : count = fuel := ended.elim id fun ⟨_, ended⟩ => by simp [ended] at next
      refine ⟨count + 1, rfl, fun k below => ?_, .inl rfl⟩
      rcases Nat.lt_succ_iff_lt_or_eq.mp below with below | rfl
      · exact ran k below
      · rw [settleLoop_succ, next, Option.getD_some]

/-! ### The burst that becomes due (R112) -/

theorem scheduleBurst_held (held : s.seq.dataBus = some b) : s.scheduleBurst = s := by
  simp only [State.scheduleBurst, held]

theorem scheduleBurst_empty (free : s.seq.dataBus = none) (empty : s.seq.burstOrder = []) : s.scheduleBurst = s := by
  simp only [State.scheduleBurst, free, empty]

theorem scheduleBurst_head {rest : List BankId} (free : s.seq.dataBus = none) (head : s.seq.burstOrder = b :: rest) :
    s.scheduleBurst = (s.addDue b .burst).mapSeq fun q => { q with dataBus := some b } := by
  simp only [State.scheduleBurst, free, head]

theorem scheduleBurst_frame (s : State) : s.scheduleBurst =
    { s with seq := { s.seq with dataBus := s.scheduleBurst.seq.dataBus, due := s.scheduleBurst.seq.due } } := by
  cases bus : s.seq.dataBus with
  | some b => rw [scheduleBurst_held bus]
  | none =>
    cases order : s.seq.burstOrder with
    | nil => rw [scheduleBurst_empty bus order]
    | cons b rest =>
      rw [scheduleBurst_head bus order]
      rcases addDue_cases s b .burst with ⟨-, h⟩ | ⟨-, h⟩ <;> rw [h] <;> rfl

/-- The steps due when the burst of the bank at the head has become due, before they are put in order. -/
def dueAtEnd (before s : State) : List (BankId × BankStep) := (State.orderReady before s.settle).scheduleBurst.seq.due

theorem orderReady_schedule_frame (before s : State) : (State.orderReady before s).scheduleBurst =
    { s with seq := { s.seq with
      burstOrder := sortAfter before.seq.burstOrder.length Fin.val s.seq.burstOrder
      dataBus := (State.orderReady before s).scheduleBurst.seq.dataBus
      due := (State.orderReady before s).scheduleBurst.seq.due } } :=
  scheduleBurst_frame (State.orderReady before s)

theorem orderDue_place_frame (before s : State) : State.placeCloseAll before (State.orderDue before s) =
    { s with seq := { s.seq with
      due := sortAfter before.seq.due.length (fun d => d.1.val) s.seq.due
      resetCloseAll := (State.placeCloseAll before (State.orderDue before s)).seq.resetCloseAll } } :=
  placeCloseAll_frame before (State.orderDue before s)

/-- Two settings of the end of an event, the later one over the earlier. -/
theorem seq_settings {s t u : State} {order : List BankId} {bus : Option BankId} {early late : List (BankId × BankStep)}
    {call : Option Nat} (first : t = { s with seq := { s.seq with burstOrder := order, dataBus := bus, due := early } })
    (second : u = { t with seq := { t.seq with due := late, resetCloseAll := call } }) :
    u = { s with seq := { s.seq with burstOrder := order, dataBus := bus, due := late, resetCloseAll := call } } := by
  rw [second, first]

/-- All that the end of an event sets beside its consequences. -/
theorem finish_eq (before s : State) : State.finish before s = { s.settle with seq := { s.settle.seq with
    burstOrder := sortAfter before.seq.burstOrder.length Fin.val s.settle.seq.burstOrder
    dataBus := (State.orderReady before s.settle).scheduleBurst.seq.dataBus
    due := sortAfter before.seq.due.length (fun d => d.1.val) (dueAtEnd before s)
    resetCloseAll := (State.finish before s).seq.resetCloseAll } } :=
  seq_settings (orderReady_schedule_frame before s.settle) (orderDue_place_frame before _)

theorem finish_burstOrder (before s : State) : (State.finish before s).seq.burstOrder =
    sortAfter before.seq.burstOrder.length Fin.val s.settle.seq.burstOrder :=
  congrArg (fun u : State => u.seq.burstOrder) (finish_eq before s)

theorem finish_due (before s : State) : (State.finish before s).seq.due =
    sortAfter before.seq.due.length (fun d => d.1.val) (dueAtEnd before s) :=
  congrArg (fun u : State => u.seq.due) (finish_eq before s)

theorem finish_dataBus (before s : State) : (State.finish before s).seq.dataBus =
    (State.orderReady before s.settle).scheduleBurst.seq.dataBus :=
  (congrArg (fun u : State => u.seq.dataBus) (finish_eq before s) :)

theorem finish_frame (before s : State) : State.finish before s = { s.settle with seq := { s.settle.seq with
    burstOrder := (State.finish before s).seq.burstOrder
    dataBus := (State.finish before s).seq.dataBus
    due := (State.finish before s).seq.due
    resetCloseAll := (State.finish before s).seq.resetCloseAll } } := by
  rw [finish_burstOrder, finish_due, finish_dataBus]
  exact finish_eq before s

theorem finish_closeAllPlaced (before s : State) : CloseAllPlaced before s.settle.seq.resetCloseAll
    (State.finish before s).seq.resetCloseAll (State.finish before s).seq.due := by
  have called : (State.orderReady before s.settle).scheduleBurst.seq.resetCloseAll = s.settle.seq.resetCloseAll :=
    (congrArg (fun u : State => u.seq.resetCloseAll) (orderReady_schedule_frame before s.settle) :)
  rw [finish_due, ← called]
  exact closeAllPlaced_placeCloseAll before (State.orderDue before (State.orderReady before s.settle).scheduleBurst)

theorem ordered_burstOrder {before s : State} {l : List BankId} (h : (State.finish before s).seq.burstOrder = l) :
    (State.orderReady before s.settle).seq.burstOrder = l := (finish_burstOrder before s).symm.trans h

/-! ### Every consequence comes from the list of rows -/

/-- The rows that R26 and its kin name, one of which every consequence is. -/
def consequences : List (State → Option State) :=
  [syncClaims, slotGrant, heldPostAcceptance, drainComplete, jobEnd, jobStart, destinationLineBuild, engineRequest,
    scanExamination, compareChunk, renewalStart, requestGrant, resettingEnd, resetCallSatisfied]

theorem mem_consequences {a : State → Option State} (ha : a ∈ settleActions) (h : a s = some t) :
    t ∈ consequences.filterMap fun a => a s := by
  rw [List.mem_filterMap]
  by_cases turn : a = examineInTurn
  · subst turn
    exact ⟨scanExamination, by simp [consequences], examineInTurn_scan h⟩
  · refine ⟨a, ?_, h⟩
    simp only [settleActions, List.mem_cons, turn, false_or] at ha
    simp only [consequences, List.mem_cons]
    tauto

/-! ### What is left to do when no consequence is (R24 to R26, R74, R77, R110, R119, R143, R153, R171) -/

theorem freeCount_of_firstFree_none {p : Pool} (h : p.firstFree = none) : p.freeCount = 0 := by
  unfold Pool.firstFree at h
  rw [List.find?_eq_none] at h
  rw [Pool.freeCount, List.length_eq_zero_iff, List.filter_eq_nil_iff]
  intro x hx
  obtain ⟨i, hi, rfl⟩ := List.mem_iff_getElem.mp hx
  simpa using h ⟨i, by simpa using hi⟩ (List.mem_finRange _)

/-- Why SLOT_GRANT has nothing to do: no free slot, or no claim that may be granted (R25). -/
theorem slotGrant_eq_none (h : slotGrant s = none) : s.pool.nextGrant = none ∨ s.pool.freeCount = 0 := by
  unfold slotGrant at h
  split at h
  · cases h
  · next noFree => exact .inr (freeCount_of_firstFree_none noFree)
  · next noGrant => exact .inl noGrant

theorem essential_of_nextGrant_none {p : Pool} (h : p.nextGrant = none) {c : Fin 9} {x : Claim}
    (claim : p.claims[c] = some x) (essential : x.cls = .essential) : p.freeCount = 0 := by
  unfold Pool.nextGrant at h
  split at h
  · simpa using h
  · next noClaim => exact (firstClaim_eq_none_iff.mp noClaim c x claim essential).elim

theorem reserve_of_nextGrant_none {p : Pool} (h : p.nextGrant = none) {c : Fin 9} {x : Claim}
    (claim : p.claims[c] = some x) : p.freeCount ≤ 10 := by
  unfold Pool.nextGrant at h
  split at h
  · have none : p.freeCount = 0 := by simpa using h
    omega
  · next noEssential =>
    split at h
    · have notReadAhead := firstClaim_eq_none_iff.mp h c x claim
      have notEssential := firstClaim_eq_none_iff.mp noEssential c x claim
      cases cls : x.cls
      · exact (notEssential cls).elim
      · exact (notReadAhead cls).elim
    · next small => exact Nat.le_of_not_lt small

theorem takeHeld_eq_none {o : Fin 9} {p : HeldPost} (h : s.takeHeld o = none) (held : s.heldAt o = some p) :
    s.acceptPost p.line p.mask p.slot = none := by
  cases taken : s.acceptPost p.line p.mask p.slot with
  | none => rfl
  | some t =>
    rw [takeHeld_some held taken] at h
    cases h

theorem eligibleAt_of_requestGrant_none (h : requestGrant s = none) (p : Fin 10) : s.eligibleAt p = none := by
  unfold requestGrant at h
  split at h
  · cases h
  · next noGrant =>
    unfold State.nextRequestGrant at noGrant
    split at noGrant
    · cases noGrant
    · exact (cyclic_findSome_none _ _).mp noGrant p

/-- Why a decided or cancelled job does not end: a fetch in flight, or a post that is held (R153). -/
theorem held_of_jobEnd_none (h : jobEnd s = none) {j : ActiveJob} (active : s.engine.active = some j)
    (settles : j.cancel = true ∨ j.outcome ≠ none) :
    (∃ (k : Fin 2) (x : SourceBuffer), s.engine.buffers[k] = some x ∧ x.state = .inFlight) ∨
      ∃ d : DestLine, s.engine.dest = some d ∧ d.held = true := by
  have decided : (j.outcome.isSome || j.cancel) = true := by
    rcases settles with cancelled | decided
    · simp [cancelled]
    · simp [Option.isSome_iff_ne_none.mpr decided]
  have ending : s.engine.ending = none := by
    unfold jobEnd at h
    split at h
    · cases h
    · assumption
  by_contra none
  push Not at none
  obtain ⟨landed, taken⟩ := none
  have noFetch : s.engine.anyBuffer (fun x => x.state = .inFlight) = false :=
    anyBuffer_eq_false_iff.mpr fun k x buffer => by simpa using landed k x buffer
  cases dest : s.engine.dest with
  | none => simp [Engine.ending, active, decided, noFetch, dest] at ending
  | some d => simp [Engine.ending, active, decided, noFetch, dest, taken d dest] at ending

theorem active_of_state {e : Engine} {j : ActiveJob} (h : e.state = .acquiring j ∨ e.state = .running j) :
    e.active = some j := by
  rcases h with h | h <;> simp only [Engine.active, h]

/-- With no consequence left, nothing is left of what each brings about. -/
theorem settled_of_settleStep_none (quiet : settleStep s = none) : Settled s := by
  have idle (a : State → Option State) (ha : a ∈ settleActions) : a s = none := action_none_of_settled quiet ha
  have requests := eligibleAt_of_requestGrant_none (idle requestGrant (by simp [settleActions]))
  have grants := slotGrant_eq_none (idle slotGrant (by simp [settleActions]))
  have builds : destinationLineBuild s = none := idle _ (by simp [settleActions])
  have fetches : engineRequest s = none := idle _ (by simp [settleActions])
  have comparisons : compareChunk s = none := idle _ (by simp [settleActions])
  have renewals : renewalStart s = none := idle _ (by simp [settleActions])
  refine { builds, fetches, comparisons, renewals, claims := ?claims, essential := ?essential, readAhead := ?readAhead,
           posts := ?posts, drains := ?drains, jobs := ?jobs, endings := ?endings, examinations := ?examinations,
           requests := fun p q => eligibleAt_eq_none_iff.mp (requests p) q, resetting := ?resetting,
           closeCalled := ?closeCalled }
  case claims =>
    have synced := idle syncClaims (by simp [settleActions])
    rw [← claimList_toList_eq_iff]
    by_contra differ
    simp [syncClaims, differ] at synced
  case essential =>
    intro c x claim essential
    exact grants.elim (fun noGrant => essential_of_nextGrant_none noGrant claim essential) id
  case readAhead =>
    intro c x claim
    refine grants.elim (fun noGrant => reserve_of_nextGrant_none noGrant claim) fun none => ?_
    omega
  case posts =>
    intro o p held
    have none := idle heldPostAcceptance (by simp [settleActions])
    exact takeHeld_eq_none ((cyclic_findSome_none _ _).mp none o) held
  case drains =>
    intro n w c executing stream write draining empty
    have none := idle drainComplete (by simp [settleActions])
    rw [drainComplete_of_drained executing stream write draining empty] at none
    cases none
  case jobs =>
    intro engineIdle
    cases queued : s.engine.jobs with
    | nil => rfl
    | cons j more =>
      have none := idle jobStart (by simp [settleActions])
      rw [jobStart_of_idle engineIdle queued] at none
      cases none
  case endings =>
    exact fun j state settles => held_of_jobEnd_none (idle jobEnd (by simp [settleActions])) (active_of_state state) settles
  case examinations =>
    have none := idle examineInTurn (by simp [settleActions])
    simpa [examineInTurn, requests 9] using none
  case resetting =>
    intro resetting
    by_contra noOwner
    push Not at noOwner
    have none := idle resettingEnd (by simp [settleActions])
    rw [resettingEnd_of_unowned resetting noOwner] at none
    cases none
  case closeCalled =>
    intro called
    by_contra allClosed
    push Not at allClosed
    have none := idle resetCallSatisfied (by simp [settleActions])
    simp [resetCallSatisfied, Option.isSome_iff_ne_none.mpr called, (allClosed_iff s.seq).mpr allClosed] at none

end Sys2Proof.Proofs.EventEnd

/-! PROOFS. What the event rows and the bus accesses leave of the frozen part, the memory first of all. -/

namespace Sys2Proof.Proofs.RowFrames

open Sys2Proof Sys2Proof.Machine Sys2Proof.Safety Sys2Proof.Laws
open Sys2Proof.Proofs.Control Sys2Proof.Proofs.EventEnd Sys2Proof.Proofs.PinReset Sys2Proof.Proofs.StepChanges
open Sys2Proof.Proofs.MoveEngine Sys2Proof.Proofs.Sequencing

variable {s t u : State} {n : StreamId} {b : BankId} {p : Params}

/-! ### The consequences as rows -/

theorem whileRunning_frozen {f : State → State} (same : frozen (f s) = frozen s) :
    frozen (whileRunning f s) = frozen s := by
  unfold whileRunning
  split
  · rfl
  · exact same

theorem consequenceRow_frozen {a : State → Option State} (ha : ∀ t, a s = some t → frozen t = frozen s) :
    frozen (whileRunning (consequence a) s) = frozen s := by
  refine whileRunning_frozen ?_
  unfold consequence
  split
  · next t acts => rw [finish_frozen, ha t acts]
  · rfl

theorem actionRow_frozen {a : State → Option State} (ha : a ∈ settleActions) :
    frozen (whileRunning (consequence a) s) = frozen s := consequenceRow_frozen fun _ => settleActions_frozen ha

theorem opportunisticRenewal_frozen (h : opportunisticRenewal s = some t) : frozen t = frozen s := by
  unfold opportunisticRenewal at h
  split at h
  · cases h
    rfl
  · cases h

/-- Every consequence as a row of its own keeps the frozen part. -/
theorem consequenceRows_keep {i : Instr} (hi : i ∈ [Instr.slotGrant, .requestGrant, .heldPostAcceptance, .drainComplete,
    .opportunisticRenewal, .resettingEnd, .jobStart, .destinationLineBuild, .scanExamination, .compareChunk, .jobEnd])
    (s : State) : ∃ t, exec i s = .next t ∧ frozen t = frozen s := by
  by_cases renewal : i = .opportunisticRenewal
  · subst renewal
    exact ⟨_, rfl, consequenceRow_frozen fun _ => opportunisticRenewal_frozen⟩
  by_cases scan : i = .scanExamination
  · subst scan
    exact ⟨_, rfl, consequenceRow_frozen fun _ => scanExamination_frozen⟩
  simp only [List.mem_cons, List.not_mem_nil, renewal, scan, false_or, or_false] at hi
  rcases hi with rfl | rfl | rfl | rfl | rfl | rfl | rfl | rfl | rfl
  all_goals exact ⟨_, rfl, actionRow_frozen (by simp [settleActions])⟩

/-! ### The rows that change the pins (R63, R104, R107, R113, R114, R117) -/

/-- Of the frozen part the pins alone change. -/
def PinsAlone (s t : State) : Prop := frozen t = { frozen s with pins := t.pins }

theorem PinsAlone.of_eq (same : frozen t = frozen s) : PinsAlone s t := by
  have pins : t.pins = s.pins := congrArg Frozen.pins same
  unfold PinsAlone
  rw [same, pins]
  rfl

theorem PinsAlone.refl : PinsAlone s s := .of_eq rfl

theorem PinsAlone.withPins (h : PinsAlone s u) (x : MemoryPins) : PinsAlone s (u.withPins x) := by
  have shown : frozen (u.withPins x) = { frozen u with pins := x } := rfl
  unfold PinsAlone
  rw [shown, show frozen u = _ from h]
  rfl

theorem PinsAlone.keeps (h : PinsAlone s u) (same : frozen t = frozen u) : PinsAlone s t := by
  have pins : t.pins = u.pins := congrArg Frozen.pins same
  unfold PinsAlone
  rw [same, pins]
  exact h

theorem PinsAlone.finish (h : PinsAlone s u) (before : State) : PinsAlone s (State.finish before u) :=
  h.keeps (finish_frozen before u)

theorem PinsAlone.whileRunning {f : State → State} (h : PinsAlone s (f s)) : PinsAlone s (whileRunning f s) := by
  unfold Machine.whileRunning
  split
  · exact .refl
  · exact h

theorem lingerExpiry_frozen (n : StreamId) (s : State) : frozen (lingerExpiry n s) = frozen s := by
  unfold lingerExpiry
  split
  · split
    · rw [finish_frozen]
      unfold State.lingerPost
      split <;> simp
    · rfl
  all_goals rfl

theorem rowAgeExpiry_frozen (b : BankId) (s : State) : frozen (rowAgeExpiry b s) = frozen s := by
  unfold rowAgeExpiry
  split
  · split
    · rfl
    · rw [finish_frozen]
      unfold State.ageClose
      dsimp only
      split <;> simp
  · rfl

theorem openSettleEnd_pins (b : BankId) (s : State) : PinsAlone s (openSettleEnd b s) := by
  unfold openSettleEnd
  split
  · have ended : PinsAlone s (s.setBank b { s.seq.banks[b] with state := .opened, left := 0 }).idlePins :=
      (PinsAlone.of_eq (setBank_frozen s _ _)).withPins _
    refine PinsAlone.finish ?_ s
    split
    · exact ended.keeps (joinBurst_frozen _ b)
    · exact ended
  · exact .refl

theorem closeSettleEnd_pins (b : BankId) (s : State) : PinsAlone s (closeSettleEnd (.bank b) s) := by
  unfold closeSettleEnd
  dsimp only
  split
  · have ended : PinsAlone s (s.setBank b { s.seq.banks[b] with state := .closed, left := 0 }).idlePins :=
      (PinsAlone.of_eq (setBank_frozen s _ _)).withPins _
    refine PinsAlone.finish ?_ s
    split
    · exact ended.keeps (addDue_frozen _ b _)
    · exact ended
  · exact .refl

theorem writeDataEnd_pins (b : BankId) (s : State) : PinsAlone s (writeDataEnd b s) := by
  unfold writeDataEnd
  split
  · refine PinsAlone.finish (PinsAlone.withPins (.of_eq ?_) _) s
    rw [freeBus_frozen, setBank_frozen]
  · exact .refl

theorem takeReturn_frozen (s : State) (o : OwnerRecord) : frozen (s.takeReturn o) = frozen s := by
  unfold State.takeReturn State.handOn
  split
  · rfl
  · dsimp only
    split
    · rw [entryReturn_frozen]
    · rw [bufferReturn_frozen]

theorem endFetch_pins (s : State) (b : BankId) (o : OwnerRecord) : PinsAlone s (s.endFetch b o) := by
  refine PinsAlone.finish (PinsAlone.withPins (.of_eq ?_) _) s
  rw [releaseBank_frozen, freeBus_frozen, takeReturn_frozen]

/-- The end of an owner's operation has its effect, or does nothing (R113, R114). -/
theorem ownerEnds_cases {op : MemOp} {owner : Option OwnerRecord} {effect : OwnerRecord → State}
    (h : ownerEnds op owner effect s = .next t) : t = s ∨ ∃ o, t = effect o := by
  unfold ownerEnds at h
  split at h
  · cases h
    exact .inl rfl
  · next o =>
    split at h
    · cases h
      exact .inl rfl
    · split at h
      · cases h
        exact .inr ⟨o, rfl⟩
      · cases h

theorem execFetchReturn_pins (h : execFetchReturn b s = .next t) : PinsAlone s t := by
  unfold execFetchReturn at h
  split at h
  · cases h
    exact .refl
  · rcases ownerEnds_cases h with rfl | ⟨o, rfl⟩
    · exact .refl
    · exact endFetch_pins s b o

theorem pinsAlone_of_row (h : (Host.Outcome.next u : Host.Outcome State Fault Refusal) = .next t) (ran : PinsAlone s u) :
    PinsAlone s t := by
  cases h
  exact ran

/-- The rows that change of the frozen part the pins alone. -/
theorem pinRows_keep {i : Instr} (hi : i ∈ [Instr.lingerExpiry n, .rowAgeExpiry b, .openSettleEnd b,
    .closeSettleEnd (.bank b), .writeDataEnd b, .fetchReturn b]) (h : exec i s = .next t) : PinsAlone s t := by
  simp only [List.mem_cons, List.not_mem_nil, or_false] at hi
  rcases hi with rfl | rfl | rfl | rfl | rfl | rfl
  · exact pinsAlone_of_row h (PinsAlone.of_eq (lingerExpiry_frozen n s)).whileRunning
  · exact pinsAlone_of_row h (PinsAlone.of_eq (rowAgeExpiry_frozen b s)).whileRunning
  · exact pinsAlone_of_row h (openSettleEnd_pins b s).whileRunning
  · exact pinsAlone_of_row h (closeSettleEnd_pins b s).whileRunning
  · exact pinsAlone_of_row h (writeDataEnd_pins b s).whileRunning
  · exact execFetchReturn_pins h

/-! ### The store's completion (R79) -/

/-- Of the frozen part the pins and the memory alone change. -/
def PinsAndMemory (s t : State) : Prop := frozen t = { frozen s with pins := t.pins, memory := t.memory }

theorem PinsAndMemory.of_pinsAlone (h : PinsAlone s t) : PinsAndMemory s t := by
  have memory : t.memory = s.memory := congrArg Frozen.memory h
  unfold PinsAndMemory
  rw [memory]
  exact h

theorem PinsAndMemory.of_memory {m : Memory} (h : PinsAlone (s.withMemory m) t) : PinsAndMemory s t := by
  have memory : t.memory = m := congrArg Frozen.memory h
  unfold PinsAndMemory
  rw [memory]
  exact h

theorem reportSync_frozen (s : State) (k : SlotId) : frozen (s.reportSync k) = frozen s := by
  unfold State.reportSync
  split <;> rfl

theorem endStore_pinsAndMemory (s : State) (b : BankId) (o : OwnerRecord) : PinsAndMemory s (s.endStore b o) := by
  refine PinsAndMemory.of_memory (m := (s.store o).memory) (PinsAlone.finish (PinsAlone.withPins (.of_eq ?_) _) s)
  rw [releaseBank_frozen, State.removeStored, release_frozen, withPost_frozen, reportSync_frozen]
  rfl

theorem execStoreComplete_pinsAndMemory (h : exec (.storeComplete b) s = .next t) : PinsAndMemory s t := by
  replace h : execStoreComplete b s = .next t := h
  unfold execStoreComplete at h
  split at h
  · cases h
    exact .of_pinsAlone .refl
  · rcases ownerEnds_cases h with rfl | ⟨o, rfl⟩
    · exact .of_pinsAlone .refl
    · exact endStore_pinsAndMemory s b o

/-- Settles O56: each row by its own frame, the end of an event by its run of consequences and the orders it sets,
and what is left when no consequence is by the list of them. -/
theorem eventRowsKeepTheFrozenPart : Obligations.EventRowsKeepTheFrozenPart := by
  unfold Obligations.EventRowsKeepTheFrozenPart
  refine ⟨fun i s hi => consequenceRows_keep hi s, fun i n b s t hi h => pinRows_keep hi h,
    fun b s t h => execStoreComplete_pinsAndMemory h, fun before s => ?ends, fun s t next => ?consequence,
    fun s => settled_of_settleStep_none⟩
  case ends =>
    obtain ⟨count, settles, ran, ended⟩ := settleLoop_run 4096 s
    replace settles : settleLoop count s = s.settle := settles.symm
    refine ⟨count, fun k => settleLoop k s, dueAtEnd before s, State.finish before s, rfl, ran, ended, rfl, ?_⟩
    dsimp only
    rw [settles]
    refine ⟨finish_frame before s, finish_closeAllPlaced before s, ?_, ?_, fun b held => ?_, fun free empty => ?_,
      fun b rest free head => ?_⟩
    · rw [finish_burstOrder]
      exact orderedAfter_sortAfter _ _ _
    · rw [finish_due]
      exact orderedAfter_sortAfter _ _ _
    · rw [finish_dataBus, dueAtEnd, scheduleBurst_held (s := State.orderReady before s.settle) held]
      exact ⟨held, rfl⟩
    · rw [finish_dataBus, dueAtEnd, scheduleBurst_empty (s := State.orderReady before s.settle) free (ordered_burstOrder empty)]
      exact ⟨free, rfl⟩
    · rw [finish_dataBus, dueAtEnd, scheduleBurst_head (s := State.orderReady before s.settle) free
        (ordered_burstOrder head)]
      refine ⟨rfl, fun idle => ?_, fun waits => ?_⟩
      · rw [addDue_of_idle (by exact idle)]
        rfl
      · rw [addDue_of_waiting (by exact waits)]
        rfl
  case consequence =>
    obtain ⟨a, ha, acts⟩ := settleStep_action next
    exact ⟨settleActions_frozen ha acts, mem_consequences ha acts⟩

end Sys2Proof.Proofs.RowFrames

/-! PROOFS. What the bus accesses leave of the frozen part (R162 to R164, R169, R174, R178, R181), and that memory changes
at a store's completion and at a fall of /RESET alone. -/

namespace Sys2Proof.Proofs.AccessFrames

open Sys2Proof Sys2Proof.Machine Sys2Proof.Safety Sys2Proof.Laws
open Sys2Proof.Proofs.Control Sys2Proof.Proofs.EventEnd Sys2Proof.Proofs.PinReset Sys2Proof.Proofs.StepChanges
open Sys2Proof.Proofs.RowFrames

variable {s t u : State} {n : StreamId} {b : BankId} {p : Params} {code : Byte}

/-! ### The commands (R163) -/

/-- What a command leaves of the frozen part, but for the registers that its code names. -/
structure CommandKeeps (code : Byte) (s t : State) : Prop where
  rest : frozen t = { frozen s with
    clock := t.clock, result := t.port.result, memoryState := t.seq.memory, startUp := t.startUp, timing := t.timing }
  result : code ≠ 0x06#8 → code ≠ 0x11#8 → code ≠ 0x12#8 → t.port.result = s.port.result
  timing : code ≠ 0x20#8 → t.timing = s.timing
  start : code ≠ 0x21#8 → t.seq.memory = s.seq.memory ∧ t.startUp = s.startUp
  clock : code ≠ 0x22#8 → t.clock = s.clock

theorem CommandKeeps.of_eq (same : frozen t = frozen s) : CommandKeeps code s t where
  rest := by
    rw [show t.clock = s.clock from congrArg Frozen.clock same,
      show t.port.result = s.port.result from congrArg Frozen.result same,
      show t.seq.memory = s.seq.memory from congrArg Frozen.memoryState same,
      show t.startUp = s.startUp from congrArg Frozen.startUp same,
      show t.timing = s.timing from congrArg Frozen.timing same, same]
    rfl
  result _ _ _ := congrArg Frozen.result same
  timing _ := congrArg Frozen.timing same
  start _ := ⟨congrArg Frozen.memoryState same, congrArg Frozen.startUp same⟩
  clock _ := congrArg Frozen.clock same

theorem CommandKeeps.keeps (h : CommandKeeps code s u) (same : frozen t = frozen u) : CommandKeeps code s t := by
  have clock : t.clock = u.clock := congrArg Frozen.clock same
  have result : t.port.result = u.port.result := congrArg Frozen.result same
  have memory : t.seq.memory = u.seq.memory := congrArg Frozen.memoryState same
  have startUp : t.startUp = u.startUp := congrArg Frozen.startUp same
  have timing : t.timing = u.timing := congrArg Frozen.timing same
  obtain ⟨r, h1, h2, h3, h4⟩ := h
  constructor
  · rw [same, clock, result, memory, startUp, timing]
    exact r
  · rwa [result]
  · rwa [timing]
  · rwa [memory, startUp]
  · rwa [clock]

theorem openStream_frozen (s : State) (p : Params) (made : Option (Window × Stream)) :
    frozen (s.openStream p made) = frozen s := by
  unfold State.openStream
  split
  · rw [complete_frozen]
  · split
    · unfold State.openContext
      repeat' split
      · rw [complete_frozen]
      · rw [finish_frozen, complete_frozen, setStream_frozen]
      · rw [complete_frozen]
    all_goals rw [complete_frozen]

theorem drain_frozen (s : State) (n : StreamId) (w : WriteStream) (c : LongCommand) (p : Params) :
    frozen (s.drain n w c p) = frozen s := rfl

theorem writeStreamCommand_frozen (s : State) (n : StreamId) (w : WriteStream) (c : LongCommand) (p : Params) :
    frozen (s.writeStreamCommand n w c p) = frozen s := by
  unfold State.writeStreamCommand
  split
  · split
    · rw [finishDrain_frozen]
    · split
      · rw [finishDrain_frozen, release_frozen]
      · split
        · next t taken => rw [finishDrain_frozen, acceptPost_frozen taken]
        · rw [drain_frozen]
  · rw [complete_frozen, setStream_frozen]
  · rw [drain_frozen]
  · rw [drain_frozen]
  · split
    · rw [complete_frozen]
    all_goals
      split
      · rw [finishDrain_frozen]
      · rw [drain_frozen]

theorem seekRead_frozen (s : State) (n : StreamId) (r : ReadStream) (target : Nat) :
    frozen (s.seekRead n r target) = frozen s := by
  rw [State.seekRead, setStream_frozen, releaseEntries_frozen]

theorem closeRead_frozen (s : State) (n : StreamId) (r : ReadStream) : frozen (s.closeRead n r) = frozen s := by
  rw [State.closeRead, setStream_frozen, releaseEntries_frozen]

theorem runSeek_frozen (p : Params) (s : State) : frozen (runSeek p s) = frozen s := by
  unfold runSeek
  split
  · rw [complete_frozen]
  · split
    · rw [complete_frozen]
    all_goals split
    · rw [finish_frozen, complete_frozen, seekRead_frozen]
    · rw [complete_frozen]
    · rw [finish_frozen, writeStreamCommand_frozen]
    · rw [complete_frozen]

theorem runFlush_frozen (p : Params) (s : State) : frozen (runFlush p s) = frozen s := by
  unfold runFlush
  split
  · rw [complete_frozen]
  · split
    · rw [complete_frozen]
    · rw [complete_frozen]
    · rw [finish_frozen, writeStreamCommand_frozen]

theorem runClose_frozen (p : Params) (s : State) : frozen (runClose p s) = frozen s := by
  unfold runClose
  split
  · rw [complete_frozen]
  · split
    · rw [complete_frozen]
    · rw [finish_frozen, complete_frozen, closeRead_frozen]
    · rw [finish_frozen, writeStreamCommand_frozen]

theorem runSync_frozen (s : State) : frozen (runSync s) = frozen s := by
  rw [runSync, complete_frozen, State.tagOrReport]
  split <;> rfl

theorem runSubmitJob_frozen (p : Params) (s : State) : frozen (runSubmitJob p s) = frozen s := by
  unfold runSubmitJob
  split
  · rw [complete_frozen]
  · split
    · rw [complete_frozen]
    · split
      · rw [complete_frozen]
      · split
        · rw [complete_frozen]
        · rw [finish_frozen, complete_frozen, State.submit, mapEngine_frozen]

theorem writeResults_keeps (r : Vector Byte 8) (h : code = 0x06#8 ∨ code = 0x11#8 ∨ code = 0x12#8)
    (same : frozen u = frozen s) : CommandKeeps code s (u.writeResults r) := by
  have kept : CommandKeeps code s u := .of_eq same
  refine ⟨?_, fun no1 no2 no3 => (h.elim no1 fun h => h.elim no2 no3).elim, kept.timing, kept.start, kept.clock⟩
  rw [show frozen (u.writeResults r) = { frozen u with result := r } from rfl, kept.rest]
  rfl

theorem runQueryStream_keeps (p : Params) (s : State) : CommandKeeps 0x06#8 s (runQueryStream p s) := by
  unfold runQueryStream
  split
  · exact .of_eq (complete_frozen _ _)
  · exact (writeResults_keeps _ (.inl rfl) rfl).keeps (complete_frozen _ _)

theorem runCancelJob_keeps (p : Params) (s : State) : CommandKeeps 0x11#8 s (runCancelJob p s) := by
  unfold runCancelJob
  dsimp only
  split
  · exact .of_eq (complete_frozen _ _)
  · split
    · exact .of_eq (complete_frozen _ _)
    · refine (writeResults_keeps _ (.inr (.inl rfl)) ?_).keeps ((finish_frozen _ _).trans (complete_frozen _ _))
      exact mapEngine_frozen s _

theorem runTakeCompletion_keeps (s : State) : CommandKeeps 0x12#8 s (runTakeCompletion s) := by
  unfold runTakeCompletion
  split
  · exact .of_eq (complete_frozen _ _)
  · refine (writeResults_keeps _ (.inr (.inr rfl)) ?_).keeps ((finish_frozen _ _).trans (complete_frozen _ _))
    exact mapEngine_frozen s _

theorem runSetTiming_keeps (p : Params) (s : State) : CommandKeeps 0x20#8 s (runSetTiming p s) := by
  unfold runSetTiming
  split
  · exact .of_eq (complete_frozen _ _)
  · split
    · exact .of_eq (complete_frozen _ _)
    · next x _ =>
      have set : CommandKeeps 0x20#8 s (s.withTiming x) :=
        ⟨rfl, fun _ _ _ => rfl, fun other => (other rfl).elim, fun _ => ⟨rfl, rfl⟩, fun _ => rfl⟩
      exact set.keeps (complete_frozen _ _)

theorem runMemStart_keeps (p : Params) (s : State) : CommandKeeps 0x21#8 s (runMemStart p s) := by
  unfold runMemStart
  split
  · exact .of_eq (complete_frozen _ _)
  · have begun : CommandKeeps 0x21#8 s s.beginStartUp :=
      ⟨rfl, fun _ _ _ => rfl, fun _ => rfl, fun other => (other rfl).elim, fun _ => rfl⟩
    exact begun.keeps (stayExecuting_frozen _ _ _)

theorem runSetClock_keeps (p : Params) (s : State) : CommandKeeps 0x22#8 s (runSetClock p s) := by
  unfold runSetClock
  split
  · exact .of_eq (complete_frozen _ _)
  · next d _ =>
    have set : CommandKeeps 0x22#8 s (s.withClock { s.clock with nextDivisor := some d }) :=
      ⟨rfl, fun _ _ _ => rfl, fun _ => rfl, fun _ => ⟨rfl, rfl⟩, fun other => (other rfl).elim⟩
    exact set.keeps (complete_frozen _ _)

/-- A branch for one code, and the codes after it. -/
theorem commandKeeps_ite {x : Byte} (yes : CommandKeeps x s t) (no : CommandKeeps code s u) :
    CommandKeeps code s (if code = x then t else u) := by
  split
  · next same => exact same ▸ yes
  · exact no

/-- Every command leaves the frozen part but for the registers of its code (R163). -/
theorem runCommand_keeps (code : Byte) (p : Params) (s : State) : CommandKeeps code s (runCommand code p s) := by
  unfold runCommand
  refine commandKeeps_ite (.of_eq (openStream_frozen s p _)) (commandKeeps_ite (.of_eq (openStream_frozen s p _)) ?_)
  refine commandKeeps_ite (.of_eq (runSeek_frozen p s)) (commandKeeps_ite (.of_eq (runFlush_frozen p s)) ?_)
  refine commandKeeps_ite (.of_eq (runClose_frozen p s)) (commandKeeps_ite (runQueryStream_keeps p s) ?_)
  refine commandKeeps_ite (.of_eq (runSync_frozen s)) (commandKeeps_ite (.of_eq (runSubmitJob_frozen p s)) ?_)
  refine commandKeeps_ite (runCancelJob_keeps p s) (commandKeeps_ite (runTakeCompletion_keeps s) ?_)
  refine commandKeeps_ite (runSetTiming_keeps p s) (commandKeeps_ite (runMemStart_keeps p s) ?_)
  exact commandKeeps_ite (runSetClock_keeps p s) (.of_eq (complete_frozen _ _))

theorem commandWrite_keeps (code : Byte) (s : State) : CommandKeeps code s (commandWrite code s) := by
  unfold commandWrite
  split
  · exact runCommand_keeps code _ s
  · exact .of_eq rfl
  · exact .of_eq rfl

/-! ### The data ports -/

theorem dataRead_frozen (n : StreamId) (s : State) : frozen (dataRead n s) = frozen s := by
  unfold dataRead
  split
  · rfl
  · split
    · rfl
    · rfl
    · split
      · rw [finish_frozen, deliver_frozen]
      · unfold State.starvedRead
        repeat' split
        all_goals rfl

theorem writeInOpen_frozen (s : State) (n : StreamId) (w : WriteStream) (v : Byte) :
    frozen (s.writeInOpen n w v) = frozen s := by
  unfold State.writeInOpen
  split
  · rw [placeByte_frozen]
  · split
    · rw [placeByte_frozen]
      rfl
    · unfold State.blockNoSlot
      dsimp only
      split <;> rfl

theorem writeTurnedAway_frozen (s : State) (n : StreamId) (w : WriteStream) (v : Byte) :
    frozen (s.writeTurnedAway n w v) = frozen s := by
  unfold State.writeTurnedAway
  split <;> rfl

theorem dataWrite_frozen (n : StreamId) (v : Byte) (s : State) : frozen (dataWrite n v s) = frozen s := by
  unfold dataWrite
  dsimp only
  split
  · rfl
  · split
    · rfl
    · rfl
    · unfold writeStreamWrite
      split
      · rw [finish_frozen, writeInOpen_frozen, withBus_frozen]
      all_goals rw [writeTurnedAway_frozen, withBus_frozen]

/-! ### Every access (R181) -/

/-- What an access leaves of the frozen part, but for the registers that its position and its byte name. -/
structure AccessKeeps (p : Position) (a : Access) (s t : State) : Prop where
  rest : frozen t = { frozen s with
    clock := t.clock, param := t.port.param, result := t.port.result, memoryState := t.seq.memory, startUp := t.startUp
    timing := t.timing, enable := t.events.enable, streamEnable := t.events.streamEnable }
  timing : (p, a) ≠ (.command, .write 0x20#8) → t.timing = s.timing
  clock : (p, a) ≠ (.command, .write 0x22#8) → t.clock = s.clock
  start : (p, a) ≠ (.command, .write 0x21#8) → p ≠ .control → t.seq.memory = s.seq.memory ∧ t.startUp = s.startUp
  param : (∀ k, p ≠ .param k) → t.port.param = s.port.param
  result : (p, a) ≠ (.command, .write 0x06#8) → (p, a) ≠ (.command, .write 0x11#8) →
    (p, a) ≠ (.command, .write 0x12#8) → p ≠ .control → t.port.result = s.port.result
  enable : p ≠ .eventEnable → t.events.enable = s.events.enable
  streamEnable : p ≠ .streamEventEnable → t.events.streamEnable = s.events.streamEnable

theorem AccessKeeps.of_eq {p : Position} {a : Access} (same : frozen t = frozen s) : AccessKeeps p a s t where
  rest := by
    rw [show t.clock = s.clock from congrArg Frozen.clock same,
      show t.port.param = s.port.param from congrArg Frozen.param same,
      show t.port.result = s.port.result from congrArg Frozen.result same,
      show t.seq.memory = s.seq.memory from congrArg Frozen.memoryState same,
      show t.startUp = s.startUp from congrArg Frozen.startUp same,
      show t.timing = s.timing from congrArg Frozen.timing same,
      show t.events.enable = s.events.enable from congrArg Frozen.enable same,
      show t.events.streamEnable = s.events.streamEnable from congrArg Frozen.streamEnable same, same]
    rfl
  timing _ := congrArg Frozen.timing same
  clock _ := congrArg Frozen.clock same
  start _ _ := ⟨congrArg Frozen.memoryState same, congrArg Frozen.startUp same⟩
  param _ := congrArg Frozen.param same
  result _ _ _ _ := congrArg Frozen.result same
  enable _ := congrArg Frozen.enable same
  streamEnable _ := congrArg Frozen.streamEnable same

theorem AccessKeeps.of_command (h : CommandKeeps code s t) : AccessKeeps .command (.write code) s t where
  rest := by
    have param : t.port.param = s.port.param := congrArg Frozen.param h.rest
    have enable : t.events.enable = s.events.enable := congrArg Frozen.enable h.rest
    have streamEnable : t.events.streamEnable = s.events.streamEnable := congrArg Frozen.streamEnable h.rest
    rw [h.rest, param, enable, streamEnable]
    rfl
  timing other := h.timing fun same => other (by rw [same])
  clock other := h.clock fun same => other (by rw [same])
  start other _ := h.start fun same => other (by rw [same])
  param _ := congrArg Frozen.param h.rest
  result no1 no2 no3 _ := h.result (fun same => no1 (by rw [same])) (fun same => no2 (by rw [same]))
    fun same => no3 (by rw [same])
  enable _ := congrArg Frozen.enable h.rest
  streamEnable _ := congrArg Frozen.streamEnable h.rest

theorem abandonStartUp_frozen (s : State) : frozen s.abandonStartUp = { frozen s with
    memoryState := s.abandonStartUp.seq.memory, startUp := s.abandonStartUp.startUp } := by
  unfold State.abandonStartUp
  split <;> rfl

theorem closeStreams_frozen (s : State) : frozen s.closeStreams = frozen s := rfl

theorem softReset_seq_frozen (s : State) : frozen (s.mapSeq Sequencer.softReset) = frozen s := rfl

theorem withPort_frozen (s : State) (x : Port) : frozen (s.withPort x) = { frozen s with param := x.param, result := x.result } :=
  rfl

/-- The state that entry to RESETTING makes, but for the start-up, changes of the frozen part the RESULT bytes. -/
theorem resettingState_frozen (s : State) : frozen (resettingState s) = { frozen s with
    result := Vector.replicate 8 0x00#8 } := by
  rw [resettingState, withPort_frozen, softReset_seq_frozen, withEngine_frozen, withPost_frozen, closeStreams_frozen,
    withPool_frozen]
  rfl

/-- Entry to RESETTING changes of the frozen part the RESULT bytes and the start-up (R132, R169). -/
theorem enterResetting_frozen (s : State) : frozen s.enterResetting = { frozen s with
    result := Vector.replicate 8 0x00#8, memoryState := s.enterResetting.seq.memory
    startUp := s.enterResetting.startUp } := by
  rw [enterResetting_eq, abandonStartUp_frozen, resettingState_frozen]

theorem controlWrite_keeps (v : Byte) (a : Access) (s : State) : AccessKeeps .control a s (controlWrite v s) := by
  unfold controlWrite
  split
  · have same := (finish_frozen s s.enterResetting).trans (enterResetting_frozen s)
    generalize State.finish s s.enterResetting = t at same
    exact {
      rest := by
        rw [show t.clock = s.clock from congrArg Frozen.clock same,
          show t.port.param = s.port.param from congrArg Frozen.param same,
          show t.port.result = Vector.replicate 8 0x00#8 from congrArg Frozen.result same,
          show t.seq.memory = s.enterResetting.seq.memory from congrArg Frozen.memoryState same,
          show t.startUp = s.enterResetting.startUp from congrArg Frozen.startUp same,
          show t.timing = s.timing from congrArg Frozen.timing same,
          show t.events.enable = s.events.enable from congrArg Frozen.enable same,
          show t.events.streamEnable = s.events.streamEnable from congrArg Frozen.streamEnable same, same]
        rfl
      timing := fun _ => congrArg Frozen.timing same
      clock := fun _ => congrArg Frozen.clock same
      start := fun _ other => (other rfl).elim
      param := fun _ => congrArg Frozen.param same
      result := fun _ _ _ other => (other rfl).elim
      enable := fun _ => congrArg Frozen.enable same
      streamEnable := fun _ => congrArg Frozen.streamEnable same }
  · exact .of_eq rfl

theorem registerWrite_keeps (p : Position) (v : Byte) (s : State) : AccessKeeps p (.write v) s (registerWrite p v s) := by
  cases p with
  | param k =>
    exact ⟨rfl, fun _ => rfl, fun _ => rfl, fun _ _ => ⟨rfl, rfl⟩, fun other => (other k rfl).elim, fun _ _ _ _ => rfl,
      fun _ => rfl, fun _ => rfl⟩
  | eventEnable =>
    exact ⟨rfl, fun _ => rfl, fun _ => rfl, fun _ _ => ⟨rfl, rfl⟩, fun _ => rfl, fun _ _ _ _ => rfl,
      fun other => (other rfl).elim, fun _ => rfl⟩
  | streamEventEnable =>
    exact ⟨rfl, fun _ => rfl, fun _ => rfl, fun _ _ => ⟨rfl, rfl⟩, fun _ => rfl, fun _ _ _ _ => rfl, fun _ => rfl,
      fun other => (other rfl).elim⟩
  | command => exact .of_command (commandWrite_keeps v s)
  | control => exact controlWrite_keeps v _ s
  | _ => exact .of_eq rfl

theorem AccessKeeps.after_answer {p : Position} {a : Access} {x : Bus} (h : AccessKeeps p a (s.withBus x) t) :
    AccessKeeps p a s t :=
  ⟨h.rest, h.timing, h.clock, h.start, h.param, h.result, h.enable, h.streamEnable⟩

theorem busAccess_keeps (p : Position) (a : Access) (s : State) : AccessKeeps p a s (busAccess p a s) := by
  cases a with
  | read =>
    unfold busAccess busRead
    dsimp only
    split
    · split
      · exact .of_eq (dataRead_frozen _ s)
      all_goals exact .of_eq rfl
    · exact .of_eq rfl
  | write v =>
    unfold busAccess busWrite
    dsimp only
    split
    · split
      · exact .of_eq (dataWrite_frozen _ v s)
      all_goals exact (registerWrite_keeps _ v _).after_answer
    · exact .of_eq rfl

/-! ### The memory (R79, R83) -/

theorem whileRunning_memory {f : State → State} (same : (f s).memory = s.memory) :
    (whileRunning f s).memory = s.memory := by
  unfold whileRunning
  split
  · rfl
  · exact same

theorem memory_of_row (h : (Host.Outcome.next u : Host.Outcome State Fault Refusal) = .next t)
    (same : u.memory = s.memory) : t.memory = s.memory := by
  cases h
  exact same

theorem finish_memory (before s : State) : (State.finish before s).memory = s.memory :=
  congrArg Frozen.memory (finish_frozen before s)

theorem loseAccess_memory (s : State) (n : StreamId) (a : Access) : (s.loseAccess n a).memory = s.memory := by
  cases a <;> rfl

theorem strobeRemoved_memory (s : State) : (strobeRemoved s).memory = s.memory := by
  unfold strobeRemoved
  split
  · exact loseAccess_memory s _ _
  all_goals rfl

theorem stretchExpiry_memory (s : State) : (stretchExpiry s).memory = s.memory := by
  unfold stretchExpiry
  split
  · exact loseAccess_memory s _ _
  all_goals rfl

theorem busCycleEnd_memory (s : State) : (busCycleEnd s).memory = s.memory := by
  unfold busCycleEnd
  split <;> rfl

theorem renewalIntervalExpiry_memory (s : State) : (renewalIntervalExpiry s).memory = s.memory := by
  unfold renewalIntervalExpiry
  split
  · rw [finish_memory]
    unfold State.oweRenewal
    split <;> rfl
  · rfl

theorem settleEnd_memory (s : State) : (settleEnd s).memory = s.memory := by
  unfold settleEnd
  split <;> rfl

theorem pinResetRelease_memory (s : State) : (pinResetRelease s).memory = s.memory := by
  unfold pinResetRelease
  split <;> rfl

theorem closeSettleEnd_memory (which : SettleOf) (s : State) : (closeSettleEnd which s).memory = s.memory := by
  cases which with
  | bank b => exact congrArg Frozen.memory (closeSettleEnd_pins b s)
  | startUp =>
    unfold closeSettleEnd
    dsimp only
    split <;> rfl

theorem renewalComplete_memory (s : State) : (renewalComplete s).memory = s.memory := by
  unfold renewalComplete
  split
  · unfold State.endRenew
    rw [finish_memory]
    unfold State.completeRenewal
    split <;> rfl
  · rfl

theorem optionLoadEnd_memory (s : State) : (optionLoadEnd s).memory = s.memory := by
  have started (u : State) : u.memoryStarted.memory = u.memory := rfl
  unfold optionLoadEnd
  split
  · split
    · rw [started]
      rfl
    · rfl
  · rfl

/-- The step of a bank, issued for an owner or for none. -/
theorem issue_memory {owner : Option OwnerRecord} {issue : OwnerRecord → State}
    (same : ∀ o, (issue o).memory = s.memory) : (match owner with | some o => issue o | none => s).memory = s.memory := by
  split
  · exact same _
  · rfl

theorem ite_memory {c : Prop} [Decidable c] (same : t.memory = s.memory) (other : u.memory = s.memory) :
    (if c then t else u).memory = s.memory := by
  split
  · exact same
  · exact other

/-- No row but STORE_COMPLETE and PIN_RESET changes the memory. -/
theorem exec_memory {i : Instr} (noFall : i ≠ .pinReset) (noStore : ∀ b, i ≠ .storeComplete b) (h : exec i s = .next t) :
    t.memory = s.memory := by
  cases access : busAccessOf i with
  | some x => exact memory_of_row ((exec_access access s).symm.trans h) (congrArg Frozen.memory (busAccess_keeps x.1 x.2 s).rest)
  | none =>
    cases i with
    | pinReset => exact (noFall rfl).elim
    | storeComplete b => exact (noStore b rfl).elim
    | strobeRemovedEarly => exact memory_of_row h (whileRunning_memory (strobeRemoved_memory s))
    | stretchTimerExpiry => exact memory_of_row h (whileRunning_memory (stretchExpiry_memory s))
    | busCycleEnd => exact memory_of_row h (whileRunning_memory (busCycleEnd_memory s))
    | lingerExpiry n => exact memory_of_row h (whileRunning_memory (congrArg Frozen.memory (lingerExpiry_frozen n s)))
    | rowAgeExpiry b => exact memory_of_row h (whileRunning_memory (congrArg Frozen.memory (rowAgeExpiry_frozen b s)))
    | renewalIntervalExpiry => exact memory_of_row h (whileRunning_memory (renewalIntervalExpiry_memory s))
    | settleEnd => exact memory_of_row h (whileRunning_memory (settleEnd_memory s))
    | microsecondBoundary => exact memory_of_row h (whileRunning_memory rfl)
    | pinResetRelease => exact memory_of_row h (pinResetRelease_memory s)
    | openRow b => exact memory_of_row h (whileRunning_memory (issue_memory fun _ => rfl))
    | closeRow b => exact memory_of_row h (whileRunning_memory (ite_memory rfl rfl))
    | closeAll => exact memory_of_row h (whileRunning_memory (ite_memory rfl (ite_memory rfl rfl)))
    | readBurst b => exact memory_of_row h (whileRunning_memory (issue_memory fun _ => rfl))
    | writeBurst b => exact memory_of_row h (whileRunning_memory (issue_memory fun _ => rfl))
    | renewAll => exact memory_of_row h (whileRunning_memory (ite_memory rfl rfl))
    | loadOptions => exact memory_of_row h (whileRunning_memory (ite_memory rfl rfl))
    | openSettleEnd b => exact memory_of_row h (whileRunning_memory (congrArg Frozen.memory (openSettleEnd_pins b s)))
    | closeSettleEnd which => exact memory_of_row h (whileRunning_memory (closeSettleEnd_memory which s))
    | writeDataEnd b => exact memory_of_row h (whileRunning_memory (congrArg Frozen.memory (writeDataEnd_pins b s)))
    | renewalComplete => exact memory_of_row h (whileRunning_memory (renewalComplete_memory s))
    | optionLoadEnd => exact memory_of_row h (whileRunning_memory (optionLoadEnd_memory s))
    | fetchReturn b => exact congrArg Frozen.memory (execFetchReturn_pins h)
    | opportunisticRenewal =>
      exact memory_of_row h (congrArg Frozen.memory (consequenceRow_frozen fun _ => opportunisticRenewal_frozen))
    | scanExamination =>
      exact memory_of_row h (congrArg Frozen.memory (consequenceRow_frozen fun _ => scanExamination_frozen))
    | slotGrant | requestGrant | heldPostAcceptance | drainComplete | resettingEnd | jobStart | destinationLineBuild
    | compareChunk | jobEnd => exact memory_of_row h (congrArg Frozen.memory (actionRow_frozen (by simp [settleActions])))
    | _ => cases access

/-- Settles O57: row by row. -/
theorem memoryChangesOnlyAtStoresAndPinReset : Obligations.MemoryChangesOnlyAtStoresAndPinReset := by
  unfold Obligations.MemoryChangesOnlyAtStoresAndPinReset
  intro i s t noFall noStore h a
  rw [exec_memory noFall noStore h]

end Sys2Proof.Proofs.AccessFrames

/-! PROOFS. What the bus accesses leave of the event registers (R173 to R178): the flags of the part and of the other
streams stay through an access and all that it brings about, unless the part is RESETTING. -/

namespace Sys2Proof.Proofs.AccessReports

open Sys2Proof Sys2Proof.Machine Sys2Proof.Safety Sys2Proof.Laws
open Sys2Proof.Proofs.Commands Sys2Proof.Proofs.AccessFrames

variable {s t u : State} {n : StreamId} {p : Params} {code : Byte} {mine : StreamId → Prop}

/-! ### What most operations leave: the bus, the flags and the events -/

/-- The bus and the event registers. -/
def heard (s : State) : Bus × Vector StreamFlags 8 × Events := (s.bus, s.streamFlags, s.events)

@[simp] theorem setStream_heard (s : State) (n : StreamId) (c : Stream) : heard (s.setStream n c) = heard s := rfl

@[simp] theorem withPost_heard (s : State) (q : PostQueue) : heard (s.withPost q) = heard s := rfl

@[simp] theorem fillSlot_heard (s : State) (k : SlotId) (l : Line) : heard (s.fillSlot k l) = heard s := rfl

@[simp] theorem mapEngine_heard (s : State) (f : Engine → Engine) : heard (s.mapEngine f) = heard s := rfl

theorem acceptPost_heard {line : Nat} {mask : ByteMask} {k : SlotId} (h : s.acceptPost line mask k = some t) :
    heard t = heard s := by
  rw [acceptPost_keeps h]
  rfl

theorem releaseEntries_heard (s : State) (es : List ReadEntry) : heard (s.releaseEntries es) = heard s := by
  rw [releaseEntries_keeps]
  rfl

theorem postAssembly_heard (s : State) (n : StreamId) (w : WriteStream) (a : Assembly) (x y : WriteState) :
    heard (s.postAssembly n w a x y) = heard s := by
  rcases postAssembly_cases s n w a x y with ⟨u, taken, posted⟩ | ⟨_, held⟩
  · rw [posted, setStream_heard, acceptPost_heard taken]
  · rw [held, setStream_heard]

theorem grantRead_heard (s : State) (n : StreamId) (k : SlotId) : heard (s.grantRead n k) = heard s := by
  unfold State.grantRead
  split
  · split <;> rfl
  all_goals rfl

theorem grantDest_heard (s : State) (k : SlotId) : heard (s.grantDest k) = heard s := by
  unfold State.grantDest
  split
  · split <;> rfl
  · rfl

theorem endChunk_heard (s : State) (size : Nat) : heard (s.endChunk size) = heard s := by
  unfold State.endChunk
  split <;> rfl

theorem posterAccepted_heard (s : State) (o : Fin 9) : heard (s.posterAccepted o) = heard s := by
  unfold State.posterAccepted
  split
  · split <;> rfl
  · split
    · exact endChunk_heard s _
    · rfl

theorem takeHeld_heard {o : Fin 9} (h : s.takeHeld o = some t) : heard t = heard s := by
  unfold State.takeHeld at h
  split at h
  · split at h
    · next u taken =>
      cases h
      rw [posterAccepted_heard, withPost_heard, acceptPost_heard taken]
    · cases h
  · cases h

theorem buildAndPost_heard (s : State) (j : ActiveJob) (c : Chunk) (k : SlotId) :
    heard (s.buildAndPost j c k) = heard s := by
  unfold State.buildAndPost
  dsimp only
  split
  · next u taken => rw [endChunk_heard, acceptPost_heard taken, fillSlot_heard]
  · rw [mapEngine_heard, fillSlot_heard]

theorem examine_heard (s : State) (j : ActiveJob) (a : Nat) (pattern mask : Byte) (c : StopCondition) (k : SlotId) :
    heard (s.examine j a pattern mask c k) = heard s := by
  unfold State.examine
  dsimp only
  split <;> rfl

theorem compareLines_heard (s : State) (j : ActiveJob) (a b : Nat) (x y : SlotId) :
    heard (s.compareLines j a b x y) = heard s := by
  unfold State.compareLines
  dsimp only
  split <;> rfl

theorem endJob_heard (s : State) (j : ActiveJob) : heard (s.endJob j) = heard s :=
  foldl_keeps heard State.release (fun _ _ => rfl) s.engine.slots s.withdrawEngineClaim

theorem entryInFlight_heard (s : State) (n : StreamId) (k : SlotId) : heard (s.entryInFlight n k) = heard s := by
  unfold State.entryInFlight
  split <;> rfl

theorem tellRequester_heard (s : State) (o : Fin 10) (q : Request) : heard (s.tellRequester o q) = heard s := by
  unfold State.tellRequester
  split
  · exact entryInFlight_heard s _ _
  · split <;> rfl

theorem grantRequest_heard (s : State) (o : Fin 10) (q : Request) : heard (s.grantRequest o q) = heard s := by
  rw [State.grantRequest, tellRequester_heard, setOut_keeps]
  rfl

/-! ### The consequences that touch neither the bus, nor the flags, nor the events, nor the Command Port -/

/-- The bus, the event registers and the Command Port stay. -/
def Silent (s t : State) : Prop := heard t = heard s ∧ t.port = s.port

theorem silent_syncClaims (h : syncClaims s = some t) : Silent s t := by
  refine ⟨?_, syncClaims_port h⟩
  unfold syncClaims at h
  split at h
  all_goals cases h
  rfl

theorem silent_heldPostAcceptance (h : heldPostAcceptance s = some t) : Silent s t := by
  refine ⟨?_, heldPostAcceptance_port h⟩
  obtain ⟨_, _, taken⟩ := List.exists_of_findSome?_eq_some h
  exact takeHeld_heard taken

theorem silent_jobEnd (h : jobEnd s = some t) : Silent s t := by
  refine ⟨?_, jobEnd_port h⟩
  unfold jobEnd at h
  split at h
  all_goals cases h
  exact endJob_heard s _

theorem silent_jobStart (h : jobStart s = some t) : Silent s t := by
  refine ⟨?_, jobStart_port h⟩
  unfold jobStart at h
  split at h
  all_goals cases h
  rfl

theorem silent_destinationLineBuild (h : destinationLineBuild s = some t) : Silent s t := by
  refine ⟨?_, destinationLineBuild_port h⟩
  unfold destinationLineBuild at h
  repeat' split at h
  all_goals cases h
  exact buildAndPost_heard s _ _ _

theorem silent_engineRequest (h : engineRequest s = some t) : Silent s t := by
  refine ⟨?_, engineRequest_port h⟩
  unfold engineRequest at h
  repeat' split at h
  all_goals cases h
  rfl

theorem silent_examineInTurn (h : examineInTurn s = some t) : Silent s t := by
  refine ⟨?_, examineInTurn_port h⟩
  have examined := examineInTurn_scan h
  unfold scanExamination at examined
  repeat' split at examined
  all_goals cases examined
  exact examine_heard s _ _ _ _ _ _

theorem silent_compareChunk (h : compareChunk s = some t) : Silent s t := by
  refine ⟨?_, compareChunk_port h⟩
  unfold compareChunk at h
  repeat' split at h
  all_goals cases h
  exact compareLines_heard s _ _ _ _ _

theorem silent_renewalStart (h : renewalStart s = some t) : Silent s t := by
  refine ⟨?_, renewalStart_port h⟩
  unfold renewalStart at h
  split at h
  all_goals cases h
  rfl

theorem silent_requestGrant (h : requestGrant s = some t) : Silent s t := by
  refine ⟨?_, requestGrant_port h⟩
  unfold requestGrant at h
  split at h
  all_goals cases h
  exact grantRequest_heard s _ _

theorem silent_resetCallSatisfied (h : resetCallSatisfied s = some t) : Silent s t := by
  refine ⟨?_, resetCallSatisfied_port h⟩
  unfold resetCallSatisfied at h
  split at h
  all_goals cases h
  rfl

/-! ### Unreported: nothing is told but the end of a command, and the flags of an access's own stream -/

/-- From s to t nothing is reported but CMD_DONE and the flags of the streams that are `mine`; the part is not
RESETTING, and no byte waits in a stretched cycle of another stream. -/
structure Unreported (mine : StreamId → Prop) (s t : State) : Prop where
  awake : t.port.state ≠ .resetting
  late : t.events.renewalLate = s.events.renewalLate
  sync : t.events.syncDone = s.events.syncDone
  refused : t.events.cmdRefused = s.events.cmdRefused
  misuse : t.events.portMisuse = s.events.portMisuse
  flags : ∀ m, ¬ mine m → t.streamFlags[m] = s.streamFlags[m]
  waits : ∀ m, ¬ mine m → t.bus.waitingWrite m = none

namespace Unreported

/-- A write access that begins has been answered. -/
theorem answered (awake : s.port.state ≠ .resetting) (d : Option Byte) : Unreported mine s (s.withBus (.answered d)) :=
  ⟨awake, rfl, rfl, rfl, rfl, fun _ _ => rfl, fun _ _ => rfl⟩

theorem keeps (h : Unreported mine s u) (same : heard t = heard u) (port : t.port = u.port) : Unreported mine s t := by
  have bus : t.bus = u.bus := congrArg Prod.fst same
  have flags : t.streamFlags = u.streamFlags := congrArg (fun x => x.2.1) same
  have events : t.events = u.events := congrArg (fun x => x.2.2) same
  obtain ⟨awake, late, sync, refused, misuse, kept, waits⟩ := h
  constructor
  all_goals
    simp only [bus, flags, events, port]
    assumption

theorem silent (h : Unreported mine s u) (same : Silent u t) : Unreported mine s t := h.keeps same.1 same.2

theorem complete (h : Unreported mine s u) (r : ResultCode) : Unreported mine s (u.complete r) :=
  ⟨nofun, h.late, h.sync, h.refused, h.misuse, h.flags, h.waits⟩

theorem stayExecuting (h : Unreported mine s u) (c : LongCommand) (p : Params) :
    Unreported mine s (u.stayExecuting c p) :=
  ⟨nofun, h.late, h.sync, h.refused, h.misuse, h.flags, h.waits⟩

theorem answer (h : Unreported mine s u) (d : Option Byte) : Unreported mine s (u.withBus (.answered d)) :=
  ⟨h.awake, h.late, h.sync, h.refused, h.misuse, h.flags, fun _ _ => rfl⟩

theorem stretch (h : Unreported mine s u) (own : mine n) (a : Access) (left : Nat) :
    Unreported mine s (u.withBus (.stretched n a left)) := by
  refine ⟨h.awake, h.late, h.sync, h.refused, h.misuse, h.flags, fun m other => ?_⟩
  cases a with
  | read => rfl
  | write v => exact if_neg fun same : n = m => other (same ▸ own)

theorem mapFlags (h : Unreported mine s u) (own : mine n) (f : StreamFlags → StreamFlags) :
    Unreported mine s (u.mapFlags n f) := by
  refine ⟨h.awake, h.late, h.sync, h.refused, h.misuse, fun m other => ?_, h.waits⟩
  have apart : n.val ≠ m.val := fun same => other (Fin.ext same ▸ own)
  refine Eq.trans ?_ (h.flags m other)
  simp [State.mapFlags, State.setFlags, Vector.getElem_set_ne _ _ apart]

theorem placeByte (h : Unreported mine s u) (own : mine n) (w : WriteStream) (a : Assembly) (v : Byte) :
    Unreported mine s (u.placeByte n w a v) := by
  have posted (l : Line) (w : WriteStream) (a : Assembly) (x y : WriteState) :
      Unreported mine s ((u.fillSlot a.slot l).postAssembly n w a x y) :=
    h.keeps (postAssembly_heard _ n w a x y) (postAssembly_port _ n w a x y)
  unfold State.placeByte
  dsimp only
  split
  · split
    · exact (posted _ _ (a.mark w.cursor) _ _).mapFlags own _
    · exact (posted _ _ (a.mark w.cursor) _ _).mapFlags own _
  · split
    · exact h.keeps rfl rfl
    · exact posted _ _ (a.mark w.cursor) _ _

theorem grantAssembly (h : Unreported mine s u) (w : WriteStream) (k : SlotId) :
    Unreported mine s (u.grantAssembly n w k) := by
  have made : Unreported mine s ((u.own k (.assembly n)).setStream n (.write (w.withAssembly k))) := h.keeps rfl rfl
  unfold State.grantAssembly
  dsimp only
  split
  · next v a byte _ =>
    by_cases own : mine n
    · exact (made.placeByte own _ a v).answer none
    · rw [h.waits n own] at byte
      cases byte
  · exact made
  · exact made

theorem slotGrant (h : Unreported mine s u) (grants : slotGrant u = some t) : Unreported mine s t := by
  unfold Machine.slotGrant at grants
  split at grants
  · next c x k _ _ =>
    cases grants
    have taken : Unreported mine s (u.withPool (u.pool.granted c)) := h.keeps rfl rfl
    unfold State.takeSlot
    split
    · split
      · exact taken.keeps (grantRead_heard _ _ k) (grantRead_port _ _ k)
      · exact taken
    · split
      · unfold State.grantWrite
        split
        · split
          · exact taken.grantAssembly _ k
          · exact taken
        all_goals exact taken
      · exact taken
    · exact taken.keeps rfl rfl
    · exact taken.keeps (grantDest_heard _ k) (grantDest_port _ k)
  all_goals cases grants

theorem drainComplete (h : Unreported mine s u) (drains : drainComplete u = some t) : Unreported mine s t := by
  unfold Machine.drainComplete at drains
  repeat' split at drains
  all_goals cases drains
  exact (h.keeps (t := u.setStream _ _) rfl rfl).complete .ok

theorem resettingEnd (h : Unreported mine s u) (ends : resettingEnd u = some t) : Unreported mine s t := by
  unfold Machine.resettingEnd at ends
  rw [isResetting_eq_false h.awake] at ends
  cases ends

/-- No consequence of an access reports anything else (R26, R77, R110, R171). -/
theorem action (h : Unreported mine s u) {a : State → Option State} (ha : a ∈ settleActions) (acts : a u = some t) :
    Unreported mine s t := by
  simp only [settleActions, List.mem_cons, List.not_mem_nil, or_false] at ha
  rcases ha with rfl | rfl | rfl | rfl | rfl | rfl | rfl | rfl | rfl | rfl | rfl | rfl | rfl | rfl
  · exact h.silent (silent_syncClaims acts)
  · exact h.slotGrant acts
  · exact h.silent (silent_heldPostAcceptance acts)
  · exact h.drainComplete acts
  · exact h.silent (silent_jobEnd acts)
  · exact h.silent (silent_jobStart acts)
  · exact h.silent (silent_destinationLineBuild acts)
  · exact h.silent (silent_engineRequest acts)
  · exact h.silent (silent_examineInTurn acts)
  · exact h.silent (silent_compareChunk acts)
  · exact h.silent (silent_renewalStart acts)
  · exact h.silent (silent_requestGrant acts)
  · exact h.resettingEnd acts
  · exact h.silent (silent_resetCallSatisfied acts)

theorem finish (h : Unreported mine s u) (before : State) : Unreported mine s (State.finish before u) :=
  finish_induct (Unreported mine s) (fun _ ha _ _ acts held => held.action ha acts)
    (fun _ _ _ _ _ held => held.keeps rfl rfl) before h

theorem ite {c : Prop} [Decidable c] (yes : Unreported mine s t) (no : Unreported mine s u) :
    Unreported mine s (if c then t else u) := iteInduction (fun _ => yes) (fun _ => no)

/-! ### The commands (R163) -/

theorem openStream (h : Unreported mine s u) (p : Params) (made : Option (Window × Stream)) :
    Unreported mine s (u.openStream p made) := by
  unfold State.openStream
  split
  · exact h.complete _
  · split
    · unfold State.openContext
      have opened (c : Stream) (n : StreamId) : Unreported mine s (u.setStream n c) := h.keeps rfl rfl
      exact ite (h.complete _) (ite (((opened _ _).complete .ok).finish u) (h.complete _))
    all_goals exact h.complete _

theorem drain (h : Unreported mine s u) (n : StreamId) (w : WriteStream) (c : LongCommand) (p : Params) :
    Unreported mine s (u.drain n w c p) := stayExecuting (h.keeps (t := u.setStream n _) rfl rfl) c p

theorem finishDrain (h : Unreported mine s u) (n : StreamId) (w : WriteStream) (c : LongCommand) (p : Params) :
    Unreported mine s (u.finishDrain n w c p) := complete (h.keeps (t := u.setStream n _) rfl rfl) .ok

theorem writeStreamCommand (h : Unreported mine s u) (n : StreamId) (w : WriteStream) (c : LongCommand) (p : Params) :
    Unreported mine s (u.writeStreamCommand n w c p) := by
  unfold State.writeStreamCommand
  split
  · split
    · exact h.finishDrain n w c p
    · next a _ =>
      have released : Unreported mine s (u.release a.slot) := h.keeps rfl rfl
      refine ite (released.finishDrain n w c p) ?_
      split
      · next t taken => exact (h.keeps (acceptPost_heard taken) (acceptPost_port taken)).finishDrain n w c p
      · exact h.drain n _ c p
  · exact (h.keeps (t := u.setStream n _) rfl rfl).complete .ok
  · exact h.drain n w c p
  · exact h.drain n w c p
  · split
    · exact h.complete .ok
    all_goals
      split
      · exact h.finishDrain n w _ p
      · exact h.drain n w _ p

theorem letGo (h : Unreported mine s u) (es : List ReadEntry) (n : StreamId) (c : Stream) :
    Unreported mine s ((u.releaseEntries es).setStream n c) := by
  refine h.keeps (releaseEntries_heard u es) ?_
  rw [setStream_port, releaseEntries_keeps]

theorem runSeek (h : Unreported mine s u) (p : Params) : Unreported mine s (runSeek p u) := by
  unfold Machine.runSeek
  split
  · exact h.complete _
  · split
    · exact h.complete _
    · exact ite (((h.letGo _ _ _).complete .ok).finish u) (h.complete _)
    · exact ite ((h.writeStreamCommand _ _ _ p).finish u) (h.complete _)

theorem runFlush (h : Unreported mine s u) (p : Params) : Unreported mine s (runFlush p u) := by
  unfold Machine.runFlush
  split
  · exact h.complete _
  · split
    · exact h.complete _
    · exact h.complete _
    · exact (h.writeStreamCommand _ _ _ p).finish u

theorem runClose (h : Unreported mine s u) (p : Params) : Unreported mine s (runClose p u) := by
  unfold Machine.runClose
  split
  · exact h.complete _
  · split
    · exact h.complete _
    · exact ((h.letGo _ _ _).complete .ok).finish u
    · exact (h.writeStreamCommand _ _ _ p).finish u

theorem writeResults (h : Unreported mine s u) (r : Vector Byte 8) : Unreported mine s (u.writeResults r) :=
  ⟨h.awake, h.late, h.sync, h.refused, h.misuse, h.flags, h.waits⟩

theorem runQueryStream (h : Unreported mine s u) (p : Params) : Unreported mine s (runQueryStream p u) := by
  unfold Machine.runQueryStream
  split
  · exact h.complete _
  · exact (h.writeResults _).complete .ok

theorem mapEngine (h : Unreported mine s u) (f : Engine → Engine) : Unreported mine s (u.mapEngine f) := h.keeps rfl rfl

theorem runSubmitJob (h : Unreported mine s u) (p : Params) : Unreported mine s (runSubmitJob p u) := by
  unfold Machine.runSubmitJob
  split
  · exact h.complete _
  · exact ite (h.complete _) (ite (h.complete _) (ite (h.complete _) (((h.mapEngine _).complete .ok).finish u)))

theorem runCancelJob (h : Unreported mine s u) (p : Params) : Unreported mine s (runCancelJob p u) := by
  unfold Machine.runCancelJob
  exact ite (h.complete _) (ite (h.complete _) ((((h.mapEngine _).writeResults _).complete .ok).finish u))

theorem runTakeCompletion (h : Unreported mine s u) : Unreported mine s (runTakeCompletion u) := by
  unfold Machine.runTakeCompletion
  split
  · exact h.complete _
  · exact (((h.mapEngine _).writeResults _).complete .ok).finish u

theorem runSetTiming (h : Unreported mine s u) (p : Params) : Unreported mine s (runSetTiming p u) := by
  unfold Machine.runSetTiming
  split
  · exact h.complete _
  · split
    · exact h.complete _
    · next x _ => exact (h.keeps (t := u.withTiming x) rfl rfl).complete .ok

theorem runMemStart (h : Unreported mine s u) (p : Params) : Unreported mine s (runMemStart p u) := by
  unfold Machine.runMemStart
  exact ite (h.complete _) ((h.keeps (t := u.beginStartUp) rfl rfl).stayExecuting .memStart p)

theorem runSetClock (h : Unreported mine s u) (p : Params) : Unreported mine s (runSetClock p u) := by
  unfold Machine.runSetClock
  split
  · exact h.complete _
  · next d _ => exact (h.keeps (t := u.withClock { u.clock with nextDivisor := some d }) rfl rfl).complete .ok

/-- A command but SYNC reports its end alone (R163, R164). -/
theorem runCommand (h : Unreported mine s u) (noSync : code ≠ 0x08#8) (p : Params) :
    Unreported mine s (runCommand code p u) := by
  unfold Machine.runCommand
  rw [if_neg noSync]
  refine ite (h.openStream p _) (ite (h.openStream p _) (ite (h.runSeek p) (ite (h.runFlush p) ?_)))
  refine ite (h.runClose p) (ite (h.runQueryStream p) (ite (h.runSubmitJob p) (ite (h.runCancelJob p) ?_)))
  refine ite h.runTakeCompletion (ite (h.runSetTiming p) (ite (h.runMemStart p) ?_))
  exact ite (h.runSetClock p) (h.complete _)

/-! ### The data ports -/

theorem deliver (h : Unreported mine s u) (own : mine n) (r : ReadStream) : Unreported mine s (u.deliver n r) := by
  refine answer ?_ _
  unfold State.advanceRead
  split
  · split
    · exact (h.letGo _ _ _).mapFlags own _
    · exact (h.letGo _ _ _).mapFlags own _
  · exact h.letGo _ _ _

theorem starvedRead (h : Unreported mine s u) (own : mine n) (r : ReadStream) :
    Unreported mine s (u.starvedRead n r) := by
  have underrun : Unreported mine s (u.underrun n r) := (h.answer _).mapFlags own _
  unfold State.starvedRead
  refine ite underrun ?_
  split
  · exact underrun
  · exact h.stretch own _ _

theorem writeInOpen (h : Unreported mine s u) (own : mine n) (w : WriteStream) (v : Byte) :
    Unreported mine s (u.writeInOpen n w v) := by
  unfold State.writeInOpen
  split
  · exact h.placeByte own w _ v
  · split
    · next k _ =>
      have owned : Unreported mine s ((u.withPool { u.pool with grantPos := n.castLE (by decide) }).own k (.assembly n)) :=
        h.keeps rfl rfl
      exact owned.placeByte own _ _ v
    · unfold State.blockNoSlot
      have blocked : Unreported mine s (u.setStream n (.write { w with state := .blocked .noSlot })) := h.keeps rfl rfl
      dsimp only
      split
      · exact blocked.stretch own _ _
      · exact blocked.mapFlags own _

theorem writeTurnedAway (h : Unreported mine s u) (own : mine n) (w : WriteStream) (v : Byte) :
    Unreported mine s (u.writeTurnedAway n w v) := by
  unfold State.writeTurnedAway
  split
  · exact h.stretch own _ _
  · exact h.mapFlags own _
  · exact h.mapFlags own _
  · exact h.mapFlags own _
  · exact h

theorem writeStreamWrite (h : Unreported mine s u) (own : mine n) (w : WriteStream) (v : Byte) :
    Unreported mine s (writeStreamWrite n w v u) := by
  unfold Machine.writeStreamWrite
  split
  · exact (h.writeInOpen own w v).finish u
  all_goals exact h.writeTurnedAway own w v

end Unreported

/-! ### Every access (R181) -/

/-- What an access reports at most, outside RESETTING and but for a write of CONTROL or of EVENT_PENDING. -/
structure ReportsAtMost (p : Position) (a : Access) (s t : State) : Prop where
  late : p ≠ .eventPending → t.events.renewalLate = s.events.renewalLate
  sync : p ≠ .eventPending → (p, a) ≠ (.command, .write 0x08#8) → t.events.syncDone = s.events.syncDone
  refused : p ≠ .eventPending → p ≠ .command → t.events.cmdRefused = s.events.cmdRefused
  done : p ≠ .eventPending → p ≠ .command → (∀ n, p ≠ .data n) → t.events.cmdDone = s.events.cmdDone
  misuse : p ≠ .eventPending → (∀ n, p ≠ .data n) → (∀ k, p ≠ .unmapped k) → t.events.portMisuse = s.events.portMisuse
  flags : ∀ m, p ≠ .data m → p ≠ .streamEvent m → t.streamFlags[m] = s.streamFlags[m]

variable {q : Position} {a : Access}

theorem ReportsAtMost.of_eq (events : t.events = s.events) (flags : t.streamFlags = s.streamFlags) :
    ReportsAtMost q a s t := by
  constructor
  all_goals simp [events, flags]

theorem ReportsAtMost.of_command (h : Unreported (fun _ => False) s t) : ReportsAtMost .command a s t :=
  ⟨fun _ => h.late, fun _ _ => h.sync, fun _ other => (other rfl).elim, fun _ other => (other rfl).elim,
    fun _ _ _ => h.misuse, fun m _ _ => h.flags m not_false⟩

theorem ReportsAtMost.of_data (h : Unreported (· = n) s t) : ReportsAtMost (.data n) a s t :=
  ⟨fun _ => h.late, fun _ _ => h.sync, fun _ _ => h.refused, fun _ _ other => (other n rfl).elim,
    fun _ other => (other n rfl).elim, fun m other _ => h.flags m fun same => other (same ▸ rfl)⟩

theorem ReportsAtMost.of_misuse (h : (∃ n, q = .data n) ∨ ∃ k, q = .unmapped k) {x : Bus} :
    ReportsAtMost q a s ((s.withBus x).mapEvents Events.setPortMisuse) :=
  ⟨fun _ => rfl, fun _ _ => rfl, fun _ _ => rfl, fun _ _ _ => rfl,
    fun _ noData noUnmapped => (h.elim (fun ⟨n, h⟩ => noData n h) fun ⟨k, h⟩ => noUnmapped k h).elim, fun _ _ _ => rfl⟩

/-- Where an access can begin, no byte waits in a stretched cycle. -/
theorem unreported_begin (begins : s.accessCanBegin = true) (awake : s.port.state ≠ .resetting) :
    Unreported mine s s := by
  refine ⟨awake, rfl, rfl, rfl, rfl, fun _ _ => rfl, fun m _ => ?_⟩
  unfold State.accessCanBegin at begins
  unfold Bus.waitingWrite
  split
  · next stretched =>
    rw [stretched] at begins
    simp at begins
  all_goals rfl

theorem reports_dataRead (begins : s.accessCanBegin = true) (awake : s.port.state ≠ .resetting) (n : StreamId) :
    ReportsAtMost (.data n) a s (dataRead n s) := by
  have start : Unreported (· = n) s s := unreported_begin begins awake
  unfold dataRead
  split
  · exact .of_eq rfl rfl
  · split
    · exact .of_misuse (.inl ⟨n, rfl⟩)
    · exact .of_misuse (.inl ⟨n, rfl⟩)
    · next r _ =>
      split
      · exact .of_data ((start.deliver rfl r).finish s)
      · exact .of_data (start.starvedRead rfl r)

theorem reports_dataWrite (awake : s.port.state ≠ .resetting) (n : StreamId) (v : Byte) :
    ReportsAtMost (.data n) a s (dataWrite n v s) := by
  unfold dataWrite
  dsimp only
  split
  · exact .of_eq rfl rfl
  · split
    · exact .of_misuse (.inl ⟨n, rfl⟩)
    · exact .of_misuse (.inl ⟨n, rfl⟩)
    · next w _ =>
      have start : Unreported (· = n) s (s.withBus (.answered none)) := .answered awake none
      exact .of_data (start.writeStreamWrite rfl w v)

/-- SYNC reports SYNC_DONE beside its own end (R81). -/
theorem reports_runSync (s : State) (x : Bus) :
    ReportsAtMost .command (.write 0x08#8) s (runSync (s.withBus x)) := by
  unfold runSync State.tagOrReport
  split
  all_goals
    exact ⟨fun _ => rfl, fun _ other => (other rfl).elim, fun _ other => (other rfl).elim,
      fun _ other => (other rfl).elim, fun _ _ _ => rfl, fun _ _ _ => rfl⟩

theorem reports_commandWrite (awake : s.port.state ≠ .resetting) (code : Byte) :
    ReportsAtMost .command (.write code) s (commandWrite code (s.withBus (.answered none))) := by
  unfold commandWrite
  split
  · by_cases sync : code = 0x08#8
    · subst sync
      exact reports_runSync s _
    · exact .of_command ((Unreported.answered awake none).runCommand sync _)
  · exact ⟨fun _ => rfl, fun _ _ => rfl, fun _ other => (other rfl).elim, fun _ other => (other rfl).elim,
      fun _ _ _ => rfl, fun _ _ _ => rfl⟩
  · exact .of_eq rfl rfl

theorem reports_registerWrite (awake : s.port.state ≠ .resetting) (noControl : q ≠ .control) (v : Byte) :
    ReportsAtMost q (.write v) s (registerWrite q v (s.withBus (.answered none))) := by
  cases q with
  | control => exact (noControl rfl).elim
  | command => exact reports_commandWrite awake v
  | eventPending =>
    exact ⟨fun other => (other rfl).elim, fun other => (other rfl).elim, fun other => (other rfl).elim,
      fun other => (other rfl).elim, fun other => (other rfl).elim, fun _ _ _ => rfl⟩
  | streamEvent n =>
    refine ⟨fun _ => rfl, fun _ _ => rfl, fun _ _ => rfl, fun _ _ _ => rfl, fun _ _ _ => rfl, fun m _ other => ?_⟩
    have apart : n.val ≠ m.val := fun same => other (by rw [Fin.ext same])
    simp [registerWrite, State.mapFlags, State.setFlags, State.withBus, Vector.getElem_set_ne _ _ apart]
  | unmapped k => exact .of_misuse (.inr ⟨k, rfl⟩)
  | eventEnable | streamEventEnable =>
    exact ⟨fun _ => rfl, fun _ _ => rfl, fun _ _ => rfl, fun _ _ _ => rfl, fun _ _ _ => rfl, fun _ _ _ => rfl⟩
  | _ => exact .of_eq rfl rfl

theorem reports_busAccess (awake : s.port.state ≠ .resetting) (noControl : q ≠ .control) :
    ReportsAtMost q a s (busAccess q a s) := by
  cases a with
  | read =>
    unfold busAccess busRead
    dsimp only
    split
    · next begins =>
      split
      · exact reports_dataRead begins awake _
      · exact .of_misuse (.inr ⟨_, rfl⟩)
      all_goals exact .of_eq rfl rfl
    · exact .of_eq rfl rfl
  | write v =>
    unfold busAccess busWrite
    dsimp only
    split
    · split
      · exact reports_dataWrite awake _ v
      all_goals exact reports_registerWrite awake noControl v
    · exact .of_eq rfl rfl

/-! ### The statement -/

/-- A well-formed row that writes a code of the table is the command of that code. -/
theorem row_of_code {i : Instr} (well : i.wellFormed = true) (access : busAccessOf i = some (.command, .write code))
    (listed : commandCodes.contains code = true) : i = commandOfCode code := by
  cases i with
  | badCommand x =>
    cases access
    rw [Instr.wellFormed, listed] at well
    cases well
  | registerWrite p x =>
    cases access
    cases well
  | openRead | openWrite | seek | flush | close | queryStream | sync | submitJob | cancelJob | takeCompletion | setTiming
  | memStart | setClock =>
    cases access
    rfl
  | _ => cases access

/-- Settles O55: the frozen part by the registers that each access names, the event registers by what an access reports
at most. -/
theorem busAccessesLeaveTheRest : Obligations.BusAccessesLeaveTheRest := by
  unfold Obligations.BusAccessesLeaveTheRest
  intro i p a s t well access run
  obtain rfl : busAccess p a s = t := Host.Outcome.next.inj ((exec_access access s).symm.trans run)
  have other {code : Byte} (listed : commandCodes.contains code = true) (h : i ≠ commandOfCode code) :
      (p, a) ≠ (.command, .write code) := fun same =>
    h (row_of_code well (access.trans (congrArg some same)) listed)
  have kept := busAccess_keeps p a s
  have reports (awake : s.port.state ≠ .resetting) (noControl : p ≠ .control) :
      ReportsAtMost p a s (busAccess p a s) := reports_busAccess awake noControl
  have part {α : Type} (f : Frozen → α) := congrArg f kept.rest
  generalize busAccess p a s = t at kept reports part
  refine ⟨part Frozen.pending, part Frozen.resetLow, part Frozen.startClose, part Frozen.wide, part Frozen.wideLeft,
    part Frozen.debt, part Frozen.interval, part Frozen.pins, part Frozen.draws, fun x => ?_,
    fun h => kept.timing (other rfl h), fun h => kept.clock (other rfl h), fun h => kept.start (other rfl h), kept.param,
    fun h1 h2 h3 => kept.result (other rfl h1) (other rfl h2) (other rfl h3), kept.enable, kept.streamEnable,
    fun awake noControl noPending => ?_, fun awake noControl => (reports awake noControl).flags⟩
  · rw [show t.memory = s.memory from part Frozen.memory]
  · obtain ⟨late, sync, refused, done, misuse, -⟩ := reports awake noControl
    exact ⟨late noPending, fun h => sync noPending (other rfl h), refused noPending, done noPending, misuse noPending⟩

end Sys2Proof.Proofs.AccessReports

/-! PROOFS. One CLK period (R106, R107, R184): the events that fall in it, their run in an order left open, and the step
that goes out. -/

namespace Sys2Proof.Proofs.ClkPeriod

open Sys2Proof Sys2Proof.Machine Sys2Proof.Safety Sys2Proof.Laws
open Sys2Proof.Proofs.EventEnd

variable {s t : State} {i : Instr} {b : BankId} {n : StreamId}

/-! ### The events that fall in the period (R107, R185) -/

theorem mem_ite_singleton {c : Prop} [Decidable c] {i j : Instr} : i ∈ (if c then [j] else []) ↔ c ∧ i = j := by
  split
  · next h => simp [h]
  · next h => simp [h]

theorem mem_intervalEnd {r : Bank} : i ∈ r.intervalEnd b ↔ r.left = 0 ∧
    ((r.state = .opening ∧ i = .openSettleEnd b) ∨ (r.state = .reading ∧ i = .fetchReturn b) ∨
      (r.state = .writing ∧ i = .writeDataEnd b) ∨ (r.state = .recovering ∧ i = .storeComplete b) ∨
      (r.state = .closing ∧ i = .closeSettleEnd (.bank b))) := by
  unfold Bank.intervalEnd
  by_cases ended : r.left = 0
  · rw [if_pos ended]
    cases state : r.state <;> simp [ended]
  · simp [ended]

theorem mem_wideEnd {q : Sequencer} : i ∈ q.wideEnd ↔ q.wideLeft = 0 ∧
    ((q.wide = .renewing ∧ i = .renewalComplete) ∨ (q.wide = .loading ∧ i = .optionLoadEnd)) := by
  unfold Sequencer.wideEnd
  by_cases ended : q.wideLeft = 0
  · rw [if_pos ended]
    cases wide : q.wide <;> simp [ended]
  · simp [ended]

theorem mem_bus_expiry {x : Bus} : i ∈ x.expiry ↔
    ∃ (n : StreamId) (a : Access), x = .stretched n a 0 ∧ i = .stretchTimerExpiry := by
  cases x with
  | stretched n a left => cases left <;> simp [Bus.expiry]
  | _ => simp [Bus.expiry]

theorem mem_stream_expiry {c : Stream} : i ∈ c.expiry n ↔
    ∃ w : WriteStream, c = .write w ∧ w.lingerTimer = some 0 ∧ i = .lingerExpiry n := by
  cases c with
  | write w => simp [Stream.expiry]
  | _ => simp [Stream.expiry]

theorem mem_dueEvents : i ∈ s.dueEvents ↔ EventDue s i := by
  unfold State.dueEvents EventDue Bank.expiry
  simp only [List.mem_append, List.mem_flatMap, List.mem_finRange, true_and, mem_ite_singleton, mem_intervalEnd,
    mem_wideEnd, mem_bus_expiry, mem_stream_expiry, or_assoc]

/-- The place of an event among those of one period: each place holds at most one. -/
def place : Instr → Nat
  | .openSettleEnd b | .fetchReturn b | .writeDataEnd b | .storeComplete b | .closeSettleEnd (.bank b) => b.val
  | .closeSettleEnd .startUp => 4
  | .renewalComplete | .optionLoadEnd => 5
  | .stretchTimerExpiry => 6
  | .lingerExpiry n => 7 + n.val
  | .rowAgeExpiry b => 15 + b.val
  | .renewalIntervalExpiry => 19
  | .settleEnd => 20
  | _ => 21

/-- Events in rising places from lo on and below hi. -/
structure Placed (lo hi : Nat) (es : List Instr) : Prop where
  rising : es.Pairwise fun i j => place i < place j
  within : ∀ i ∈ es, lo ≤ place i ∧ place i < hi

theorem Placed.append {lo mid hi : Nat} {es fs : List Instr} (first : Placed lo mid es) (second : Placed mid hi fs)
    (below : lo ≤ mid) (above : mid ≤ hi) : Placed lo hi (es ++ fs) := by
  refine ⟨List.pairwise_append.mpr ⟨first.rising, second.rising, fun i hi j hj => ?_⟩, fun i hi => ?_⟩
  · exact (first.within i hi).2.trans_le (second.within j hj).1
  · rcases List.mem_append.mp hi with hi | hi
    · exact ⟨(first.within i hi).1, (first.within i hi).2.trans_le above⟩
    · exact ⟨below.trans (second.within i hi).1, (second.within i hi).2⟩

/-- At most one event, of one place. -/
theorem Placed.one {lo : Nat} {es : List Instr} (few : es.length ≤ 1) (at_ : ∀ i ∈ es, place i = lo) :
    Placed lo (lo + 1) es := by
  refine ⟨?_, fun i hi => by rw [at_ i hi]; omega⟩
  match es, few with
  | [], _ => exact List.Pairwise.nil
  | [i], _ => exact List.pairwise_singleton _ i

theorem Placed.flatMap {k lo hi : Nat} {f : Fin k → List Instr} (sum : lo + k = hi)
    (each : ∀ x, Placed (lo + x.val) (lo + x.val + 1) (f x)) : Placed lo hi ((List.finRange k).flatMap f) := by
  refine ⟨List.pairwise_flatMap.mpr ⟨fun x _ => (each x).rising, ?_⟩, fun i hi => ?_⟩
  · refine (List.sortedLT_finRange k).pairwise.imp fun {x y} below i hi j hj => ?_
    have := (each x).within i hi
    have := (each y).within j hj
    omega
  · obtain ⟨x, -, hi⟩ := List.mem_flatMap.mp hi
    have := (each x).within i hi
    have := x.isLt
    omega

theorem placed_ite {c : Prop} [Decidable c] {lo : Nat} {j : Instr} (h : place j = lo) :
    Placed lo (lo + 1) (if c then [j] else []) :=
  .one (by split <;> simp) fun i hi => (mem_ite_singleton.mp hi).2 ▸ h

theorem placed_dueEvents (s : State) : Placed 0 21 s.dueEvents := by
  have intervals : Placed 0 4 ((List.finRange 4).flatMap fun b => s.seq.banks[b].intervalEnd b) := by
    refine Placed.flatMap rfl fun b => .one ?_ fun i hi => ?_
    · unfold Bank.intervalEnd
      repeat' split
      all_goals simp
    · obtain ⟨-, h⟩ := mem_intervalEnd.mp hi
      rcases h with ⟨-, rfl⟩ | ⟨-, rfl⟩ | ⟨-, rfl⟩ | ⟨-, rfl⟩ | ⟨-, rfl⟩ <;> simp [place]
  have wide : Placed 5 6 s.seq.wideEnd := by
    refine .one ?_ fun i hi => ?_
    · unfold Sequencer.wideEnd
      repeat' split
      all_goals simp
    · obtain ⟨-, h⟩ := mem_wideEnd.mp hi
      rcases h with ⟨-, rfl⟩ | ⟨-, rfl⟩ <;> rfl
  have stretch : Placed 6 7 s.bus.expiry := by
    refine .one ?_ fun i hi => ?_
    · unfold Bus.expiry
      split <;> simp
    · obtain ⟨_, _, -, rfl⟩ := mem_bus_expiry.mp hi
      rfl
  have lingers : Placed 7 15 ((List.finRange 8).flatMap fun n => s.streams[n].expiry n) := by
    refine Placed.flatMap rfl fun n => .one ?_ fun i hi => ?_
    · unfold Stream.expiry
      repeat' split
      all_goals simp
    · obtain ⟨_, -, -, rfl⟩ := mem_stream_expiry.mp hi
      rfl
  have ages : Placed 15 19 ((List.finRange 4).flatMap fun b => s.seq.banks[b].expiry b) :=
    Placed.flatMap rfl fun b => placed_ite rfl
  have first := (intervals.append (placed_ite (c := s.startClose = some 0) (j := .closeSettleEnd .startUp) rfl)
    (by decide) (by decide)).append wide (by decide) (by decide)
  have timers := ((first.append stretch (by decide) (by decide)).append lingers (by decide) (by decide)).append ages
    (by decide) (by decide)
  exact (timers.append (placed_ite (c := s.renewal.interval = some 0) (j := .renewalIntervalExpiry) rfl)
    (by decide) (by decide)).append (placed_ite (c := s.startUp = .settle 0) (j := .settleEnd) rfl) (by decide) (by decide)

/-- Each event falls once. -/
theorem nodup_dueEvents (s : State) : s.dueEvents.Nodup :=
  (placed_dueEvents s).rising.imp fun below same => absurd (congrArg place same) (Nat.ne_of_lt below)

/-! ### Their order (log entry 7) -/

theorem map_snd_numbered (k : Nat) (es : List Instr) : (numbered k es).map Prod.snd = es := by
  induction es generalizing k with
  | nil => rfl
  | cons i is ih => exact congrArg (i :: ·) (ih (k + 1))

theorem orderEvents_perm (draw : Nat) (es : List Instr) : (orderEvents draw es).Perm es :=
  ((sortByKey_perm _ _).map Prod.snd).trans (.of_eq (map_snd_numbered 0 es))

/-! ### A run of events -/

theorem runEvents_next {is : List Instr} (h : exec i s = .next t) : runEvents (i :: is) s = runEvents is t := by
  simp only [runEvents, h]

theorem runEvents_singleton (i : Instr) (s : State) : runEvents [i] s = exec i s := by
  cases h : exec i s <;> simp only [runEvents, h]

/-- Events that all have their next states. -/
theorem runEvents_run {es : List Instr} {run : Nat → State}
    (ran : ∀ k j, es[k]? = some j → exec j (run k) = .next (run (k + 1))) : runEvents es (run 0) = .next (run es.length) := by
  induction es generalizing run with
  | nil => rfl
  | cons i is ih =>
    rw [runEvents_next (ran 0 i rfl)]
    exact ih (run := fun k => run (k + 1)) fun k j h => ran (k + 1) j h

/-- Events of which one faults, after those before it. -/
theorem runEvents_fault {es : List Instr} {run : Nat → State} {m : Nat} {r : Fault}
    (ran : ∀ k j, k < m → es[k]? = some j → exec j (run k) = .next (run (k + 1))) (last : es[m]? = some i)
    (faults : exec i (run m) = .fault r) : runEvents es (run 0) = .fault r := by
  induction m generalizing es run with
  | zero =>
    cases es with
    | nil => cases last
    | cons j is =>
      cases last
      simp only [runEvents, faults]
  | succ m ih =>
    cases es with
    | nil => cases last
    | cons j is =>
      rw [runEvents_next (ran 0 j m.succ_pos rfl)]
      exact ih (run := fun k => run (k + 1)) (fun k j below h => ran (k + 1) j (Nat.succ_lt_succ below) h) last faults

/-! ### The step that goes out (R105, R106) -/

theorem nextStep_closeAll (ready : s.closeAllReady = true) : s.nextStep = [.closeAll] := if_pos ready

/-- The row of a bank step that is due; a burst's by the operation of the bank's owner. -/
def rowOfStep (b : BankId) (owner : Option OwnerRecord) : BankStep → List Instr
  | .openRow => [.openRow b]
  | .closeRow => [.closeRow b]
  | .burst => match owner with
    | some o => if o.op = .fetch then [.readBurst b] else [.writeBurst b]
    | none => []

/-- What goes out by the bank steps that are due, where no CLOSE ALL goes out before them. -/
theorem nextStep_due (idle : s.closeAllReady = false) {rest : List (BankId × BankStep)} {x : BankStep}
    (due : s.seq.due = (b, x) :: rest) : s.nextStep = rowOfStep b s.seq.banks[b].owner x := by
  unfold State.nextStep
  rw [idle, if_neg Bool.false_ne_true, due]
  cases x <;> rfl

/-- What goes out with no bank step due. -/
theorem nextStep_none_due (idle : s.closeAllReady = false) (due : s.seq.due = []) : s.nextStep =
    if s.startCloseReady then [.closeAll] else if s.renewAllReady then [.renewAll]
    else if s.loadOptionsReady then [.loadOptions] else [] := by
  simp [State.nextStep, idle, due]

theorem stepGoesOut (u : State) : StepGoesOut u (runEvents u.nextStep u) where
  closeAll ready := by rw [nextStep_closeAll ready, runEvents_singleton]
  openRow idle b rest due := by rw [nextStep_due idle due, rowOfStep, runEvents_singleton]
  closeRow idle b rest due := by rw [nextStep_due idle due, rowOfStep, runEvents_singleton]
  readBurst idle b rest o due owner op := by
    rw [nextStep_due idle due, owner, show rowOfStep b (some o) .burst = [.readBurst b] from if_pos op,
      runEvents_singleton]
  writeBurst idle b rest o due owner op := by
    have noFetch : o.op ≠ .fetch := by
      rw [op]
      exact nofun
    rw [nextStep_due idle due, owner, show rowOfStep b (some o) .burst = [.writeBurst b] from if_neg noFetch,
      runEvents_singleton]
  unowned idle b rest due owner := by
    rw [nextStep_due idle due, owner]
    rfl
  startClose due ready := by
    cases idle : u.closeAllReady with
    | true => rw [nextStep_closeAll idle, runEvents_singleton]
    | false => rw [nextStep_none_due idle due, if_pos ready, runEvents_singleton]
  renewAll due noStart idle ready := by
    rw [nextStep_none_due idle due, noStart, if_neg Bool.false_ne_true, if_pos ready, runEvents_singleton]
  loadOptions due noStart idle noRenew ready := by
    rw [nextStep_none_due idle due, noStart, noRenew, if_neg Bool.false_ne_true, if_neg Bool.false_ne_true, if_pos ready,
      runEvents_singleton]
  noStep due noStart idle noRenew noLoad := by
    rw [nextStep_none_due idle due, noStart, noRenew, noLoad, if_neg Bool.false_ne_true, if_neg Bool.false_ne_true,
      if_neg Bool.false_ne_true]
    rfl

/-! ### The count (R184) -/

theorem countMicrosecond_boundary (reached : s.clock.divisor ≤ s.clock.clkCount) :
    s.countMicrosecond = microsecondBoundary s := if_pos reached

theorem countMicrosecond_between (below : s.clock.clkCount < s.clock.divisor) : s.countMicrosecond = s :=
  if_neg (Nat.not_le.mpr below)

/-- What a microsecond boundary leaves of the counted period. -/
theorem countMicrosecond_frame (s : State) : ∃ (x : Bus) (c : Clock) (v : Vector Stream 8) (r : Vector Bank 4)
    (y : StartUp) (z : Option Nat), s.countMicrosecond = { s with
      bus := x, clock := c, streams := v, seq := { s.seq with banks := r }, startUp := y
      renewal := { s.renewal with interval := z } } ∧ ∀ b : BankId, r[b].left = s.seq.banks[b].left := by
  unfold State.countMicrosecond
  split
  · exact ⟨_, _, _, _, _, _, rfl, fun b => by simp [Bank.countBoundary]⟩
  · exact ⟨_, _, _, _, _, _, rfl, fun b => rfl⟩

theorem countClk_left (s : State) (b : BankId) : s.countClk.seq.banks[b] =
    { s.seq.banks[b] with left := s.seq.banks[b].left - 1 } := by
  simp [State.countClk, Sequencer.countClk, Bank.countClk]

/-! ### The step on an empty queue -/

/-- The state after the count of a period, before its events. -/
def counted (s : State) : State := s.countClk.countMicrosecond

/-- The events of a period in the order in which they run. -/
def events (s : State) : List Instr := orderEvents s.draws (counted s).dueEvents

/-- The state with the steps that became due since another put in order, in which the next step goes out. -/
def ordered (before s : State) : State := State.placeCloseAll before (State.orderDue before s)

theorem drawOrder_eq (s : State) : (counted s).drawOrder = { counted s with
    draws := if (events s).length < 2 then (counted s).draws else (counted s).draws + 1 } := by
  rw [events, (orderEvents_perm _ _).length_eq]
  unfold State.drawOrder
  split <;> rfl

section
variable (empty : s.pending = []) (high : s.resetLow = false)
include empty high

theorem step_of_ran (ran : runEvents (events s) (counted s).drawOrder = .next t) :
    step s = runEvents (ordered s t).nextStep (ordered s t) := by
  simp only [step, empty, tick, high, Bool.false_eq_true, if_false]
  rw [show runEvents (orderEvents s.draws s.countClk.countMicrosecond.dueEvents) s.countClk.countMicrosecond.drawOrder =
    .next t from ran]
  rfl

theorem step_of_fault {r : Fault} (faults : runEvents (events s) (counted s).drawOrder = .fault r) : step s = .fault r := by
  simp only [step, empty, tick, high, Bool.false_eq_true, if_false]
  rw [show runEvents (orderEvents s.draws s.countClk.countMicrosecond.dueEvents) s.countClk.countMicrosecond.drawOrder =
    .fault r from faults]

end

theorem orderDue_of_empty (before : State) (due : s.seq.due = []) : State.orderDue before s = s := by
  have same : sortAfter before.seq.due.length (fun d => d.1.val) s.seq.due = s.seq.due := by
    rw [due, sortAfter, List.take_nil, List.drop_nil]
    rfl
  exact congrArg (fun d => { s with seq := { s.seq with due := d } }) same

theorem placeCloseAll_same {before : State} (same : s.seq.resetCloseAll = before.seq.resetCloseAll) :
    State.placeCloseAll before s = s := by
  rcases placeCloseAll_cases before s with ⟨none, called, -⟩ | ⟨-, h⟩
  · exact (called (same.trans none)).elim
  · exact h

/-- A period in which nothing falls and nothing goes out is the count alone. -/
theorem step_quiet (empty : s.pending = []) (high : s.resetLow = false) (noEvent : (counted s).dueEvents = [])
    (due : s.seq.due = []) (noStep : (counted s).nextStep = []) : step s = .next (counted s) := by
  obtain ⟨x, c, v, r, y, z, frame, -⟩ := countMicrosecond_frame s.countClk
  have noneDue : (counted s).seq.due = [] := (congrArg (fun u : State => u.seq.due) frame).trans due
  have noneCalled : (counted s).seq.resetCloseAll = s.seq.resetCloseAll :=
    (congrArg (fun u : State => u.seq.resetCloseAll) frame :)
  have noDraw : (counted s).drawOrder = counted s := if_pos (by rw [noEvent]; decide)
  have ran : runEvents (events s) (counted s).drawOrder = .next (counted s) := by
    rw [noDraw, events, noEvent]
    rfl
  have settled : ordered s (counted s) = counted s := by
    rw [ordered, orderDue_of_empty s noneDue, placeCloseAll_same noneCalled]
  rw [step_of_ran empty high ran, settled, noStep]
  rfl

/-- Settles O2: the count, the events in some order, and the step that goes out. -/
theorem emptyQueueStepIsOneClkPeriod : Obligations.EmptyQueueStepIsOneClkPeriod := by
  unfold Obligations.EmptyQueueStepIsOneClkPeriod
  intro s empty
  refine ⟨fun low => ?held, fun high noEvent due noStep => ?quiet, fun high => ?period⟩
  case held =>
    simp only [step, empty, tick, low, if_true]
  case quiet =>
    refine ⟨counted s, step_quiet empty high noEvent due noStep, ?_⟩
    obtain ⟨x, c, v, r, y, z, frame, left⟩ := countMicrosecond_frame s.countClk
    have part {α : Type} (f : State → α) := congrArg f frame
    refine ⟨part State.memory, part fun u => u.pins.command, part fun u => u.pins.words, fun b => ?_,
      part fun u => u.seq.wideLeft, fun below => ?_, fun reached => ?_⟩
    · have same := part fun u => u.seq.banks[b].left
      rw [counted, same]
      exact (left b).trans (congrArg Bank.left (countClk_left s b))
    · rw [counted, countMicrosecond_between (s := s.countClk) below]
      rfl
    · rw [counted, countMicrosecond_boundary (s := s.countClk) reached]
      rfl
  case period =>
    refine ⟨s.countClk, counted s, events s, rfl, countClk_left s, fun below => ?_, fun reached => ?_, fun i => ?_, ?_,
      fun run start => ⟨fun m i r ran last faults => ?_, fun ran => ?_⟩⟩
    · rw [counted, countMicrosecond_between (s := s.countClk) below]
    · rw [counted, countMicrosecond_boundary (s := s.countClk) reached]
      exact congrArg _ (whileRunning_high (s := s.countClk) high)
    · exact (orderEvents_perm _ _).mem_iff.trans mem_dueEvents
    · exact (orderEvents_perm _ _).nodup_iff.mpr (nodup_dueEvents _)
    · refine step_of_fault empty high ?_
      rw [drawOrder_eq, ← start]
      exact runEvents_fault ran last faults
    · have all : runEvents (events s) (counted s).drawOrder = .next (run (events s).length) := by
        rw [drawOrder_eq, ← start]
        exact runEvents_run ran
      rw [step_of_ran empty high all]
      generalize run (events s).length = t
      have frame : ordered s t = _ := orderDue_place_frame s t
      have due : (ordered s t).seq.due = _ := congrArg (fun u : State => u.seq.due) frame
      refine ⟨ordered s t, ?_, ?_, ?_, stepGoesOut _⟩
      · rw [due]
        exact frame
      · rw [due]
        exact orderedAfter_sortAfter _ _ _
      · rw [due]
        exact closeAllPlaced_placeCloseAll s (State.orderDue s t)

end Sys2Proof.Proofs.ClkPeriod

/-! PROOFS. The Move Engine: the start and the end of a job (R143, R144, R153, R154). -/

namespace Sys2Proof.Proofs.Jobs

open Sys2Proof Sys2Proof.Machine Sys2Proof.Safety Sys2Proof.Laws
open Sys2Proof.Proofs.ActionChanges Sys2Proof.Proofs.MoveEngine Sys2Proof.Proofs.EventEnd

variable {s t : State} {e : Engine} {j : ActiveJob}

/-! ### The release of several slots -/

theorem foldl_release_frame (l : List SlotId) (s : State) : l.foldl State.release s =
    { s with pool := { s.pool with slots := (l.foldl State.release s).pool.slots } } := by
  induction l generalizing s with
  | nil => rfl
  | cons k l ih =>
    rw [List.foldl_cons, ih]
    rfl

theorem getElem_release (s : State) (m k : SlotId) : (s.release m).pool.slots[k] =
    if m = k then { s.pool.slots[k] with owner := .free } else s.pool.slots[k] := by
  rw [release_pool]
  by_cases same : m = k
  · subst same
    simp
  · have apart : m.val ≠ k.val := fun h => same (Fin.ext h)
    simp [same, Vector.getElem_set_ne _ _ apart]

/-- The slots of the list are FREE, with their bytes; the others stay. -/
theorem getElem_foldl_release (l : List SlotId) (s : State) (k : SlotId) : (l.foldl State.release s).pool.slots[k] =
    if k ∈ l then { s.pool.slots[k] with owner := .free } else s.pool.slots[k] := by
  induction l generalizing s with
  | nil => simp
  | cons m l ih =>
    rw [List.foldl_cons, ih, getElem_release]
    by_cases same : m = k
    · subst same
      simp
    · simp [same, Ne.symm same]

/-! ### The slots that the engine holds -/

theorem mem_engine_slots {k : SlotId} : k ∈ e.slots ↔
    (∃ (m : Fin 2) (x : SourceBuffer), e.buffers[m] = some x ∧ x.slot = k) ∨ ∃ d, e.dest = some d ∧ d.slot = k := by
  have two (p : Fin 2 → Prop) : (∃ m, p m) ↔ p 0 ∨ p 1 := Fin.exists_fin_two
  rw [engine_slots, two]
  simp only [List.mem_append, Option.mem_toList, Option.map_eq_some_iff]

/-! ### JOB_START (R143, R144) -/

theorem exec_jobStart (high : s.resetLow = false) : exec .jobStart s = .next (consequence jobStart s) :=
  congrArg _ (whileRunning_high high)

theorem start_fill {j : Job} {a : Nat} {v : Byte} (fill : j.work = .fill a v) :
    e.start j = { e with state := .running j.started } := by
  simp only [Engine.start, fill]

theorem start_other {j : Job} (other : ∀ a v, j.work ≠ .fill a v) : e.start j = { e with state := .acquiring j.started } := by
  unfold Engine.start
  split
  · next a v fill => exact (other a v fill).elim
  all_goals rfl

theorem jobStart_none (h : s.engine.state ≠ .idle ∨ s.engine.jobs = []) : jobStart s = none := by
  unfold jobStart
  split
  · next idle jobs =>
    rcases h with busy | empty
    · exact (busy idle).elim
    · rw [empty] at jobs
      cases jobs
  all_goals rfl

/-! ### JOB_END (R153) -/

theorem exec_jobEnd (high : s.resetLow = false) : exec .jobEnd s = .next (consequence jobEnd s) :=
  congrArg _ (whileRunning_high high)

/-- A decided or cancelled job with nothing in flight and no post held ends (R153). -/
theorem jobEnd_some (active : s.engine.active = some j) (decided : j.cancel = true ∨ j.outcome ≠ none)
    (landed : ∀ (k : Fin 2) (x : SourceBuffer), s.engine.buffers[k] = some x → x.state ≠ .inFlight)
    (posted : ∀ d, s.engine.dest = some d → d.held = false) : jobEnd s = some (s.endJob j) := by
  cases ends : jobEnd s with
  | none =>
    rcases held_of_jobEnd_none ends active decided with ⟨k, x, buffer, inFlight⟩ | ⟨d, dest, held⟩
    · exact (landed k x buffer inFlight).elim
    · rw [posted d dest] at held
      cases held
  | some t =>
    unfold jobEnd at ends
    split at ends
    · next i ending =>
      obtain rfl : i = j := Option.some.inj ((ending_some ending).1.symm.trans active)
      exact ends.symm
    · cases ends

theorem jobEnd_idle (idle : s.engine.state = .idle) : jobEnd s = none := by
  simp only [jobEnd, Engine.ending, Engine.active, idle]

theorem endJob_engine (s : State) (j : ActiveJob) : (s.endJob j).engine = s.engine.emptyHanded.deliver j.record := by
  unfold State.endJob State.mapEngine
  rw [foldl_release_engine]
  rfl

theorem endJob_pool (s : State) (j : ActiveJob) :
    (s.endJob j).pool = (s.engine.slots.foldl State.release s.withdrawEngineClaim).pool := rfl

theorem endJob_frame (s : State) (j : ActiveJob) :
    s.endJob j = { s with pool := (s.endJob j).pool, engine := (s.endJob j).engine } := by
  unfold State.endJob
  rw [foldl_release_frame]
  rfl

theorem getElem_endJob (s : State) (j : ActiveJob) (k : SlotId) : (s.endJob j).pool.slots[k] =
    if k ∈ s.engine.slots then { s.pool.slots[k] with owner := .free } else s.pool.slots[k] := by
  rw [endJob_pool]
  exact getElem_foldl_release s.engine.slots s.withdrawEngineClaim k

theorem endJob_claims (s : State) (j : ActiveJob) : (s.endJob j).pool.claims = s.pool.claims.set 8 none ∧
    (s.endJob j).pool.grantPos = s.pool.grantPos := by
  rw [endJob_pool, foldl_release_frame]
  exact ⟨rfl, rfl⟩

theorem deliver_room (r : CompletionRecord) (room : e.completions.length < 4) :
    e.deliver r = { e with state := .idle, completions := e.completions ++ [r] } := if_pos room

theorem deliver_full (r : CompletionRecord) (full : 4 ≤ e.completions.length) :
    e.deliver r = { e with state := .completing r } := if_neg (Nat.not_lt.mpr full)

/-- The record of a job: its outcome, or CANCELLED with its progress (R154). -/
theorem record_fields (j : ActiveJob) : j.record.tag = j.job.tag ∧ j.record.kind = j.job.work.kind ∧
    (∀ o v, j.outcome = some (o, v) → j.record.outcome = o ∧ j.record.value = v) ∧
    (j.outcome = none → j.record.outcome = .cancelled ∧ j.record.value = j.progress) := by
  unfold ActiveJob.record
  cases outcome : j.outcome with
  | none => exact ⟨rfl, rfl, nofun, fun _ => ⟨rfl, rfl⟩⟩
  | some x =>
    refine ⟨rfl, rfl, fun o v same => ?_, nofun⟩
    cases same
    exact ⟨rfl, rfl⟩

/-- Settles O49: the job at the head by its kind, and the end of a job by the slots it hands back and the room for its
record. -/
theorem jobsStartAndEnd : Obligations.JobsStartAndEnd := by
  unfold Obligations.JobsStartAndEnd
  intro s high
  refine ⟨fun j rest idle jobs => ?starts, fun h => ?nothing, fun j state decided landed posted => ?ends, fun idle => ?idle⟩
  case starts =>
    rw [exec_jobStart high, consequence_some (jobStart_of_idle idle jobs)]
    refine ⟨fun ⟨a, v, fill⟩ => ?_, fun other => ?_⟩
    · rw [start_fill fill]
      rfl
    · rw [start_other other]
      rfl
  case nothing =>
    rw [exec_jobStart high, consequence_none (jobStart_none h)]
  case ends =>
    have ends := jobEnd_some (active_of_state state) decided landed posted
    obtain ⟨tag, kind, outcome, cancelled⟩ := record_fields j
    obtain ⟨claims, grantPos⟩ := endJob_claims s j
    refine ⟨s.endJob j, j.record, ?_, tag, kind, outcome, cancelled, endJob_frame s j, claims, grantPos,
      fun k x buffer => ?_, fun d dest => ?_, fun k => ⟨?_, fun noBuffer noDest => ?_⟩, fun room => ?_, fun full => ?_⟩
    · rw [exec_jobEnd high, consequence_some ends]
    · rw [getElem_endJob, if_pos (mem_engine_slots.mpr (.inl ⟨k, x, buffer, rfl⟩))]
    · rw [getElem_endJob, if_pos (mem_engine_slots.mpr (.inr ⟨d, dest, rfl⟩))]
    · unfold State.bytesOf
      rw [getElem_endJob]
      split <;> rfl
    · rw [getElem_endJob, if_neg fun held => ?_]
      rcases mem_engine_slots.mp held with ⟨m, x, buffer, slot⟩ | ⟨d, dest, slot⟩
      · exact noBuffer m x buffer slot
      · exact noDest d dest slot
    · rw [endJob_engine, deliver_room (e := s.engine.emptyHanded) _ room]
      rfl
    · rw [endJob_engine, deliver_full (e := s.engine.emptyHanded) _ full]
      rfl
  case idle =>
    rw [exec_jobEnd high, consequence_none (jobEnd_idle idle)]

end Sys2Proof.Proofs.Jobs

/-! PROOFS. The Move Engine: chunks, and the destination line of a FILL or a COPY (R147 to R150). -/

namespace Sys2Proof.Proofs.DestinationLines

open Sys2Proof Sys2Proof.Machine Sys2Proof.Safety Sys2Proof.Laws
open Sys2Proof.Proofs.ActionChanges Sys2Proof.Proofs.MoveEngine Sys2Proof.Proofs.EventEnd Sys2Proof.Proofs.Grants
open Sys2Proof.Proofs.Sequencing Sys2Proof.Proofs.Coherence

variable {s t : State} {e : Engine} {j : ActiveJob} {x line n : Nat}

/-! ### Lines and chunks -/

/-- The chunk up from an address has the bytes left in its line, or in the range. -/
theorem chunkUp_size {first length progress : Nat} (a : Nat) (at_ : first = a + progress) (more : progress < length) :
    (chunkUp first (a + length - 1)).size = min (16 - first % 16) (length - progress) := by
  unfold chunkUp Chunk.size lineOf
  dsimp only
  omega

/-- The chunk from lo to hi lies in one line. -/
def OneLine (c : Chunk) : Prop := c.lo ≤ c.hi ∧ c.hi < lineOf c.lo + 16

theorem chunkUp_oneLine {lo last : Nat} (within : lo ≤ last) : OneLine (chunkUp lo last) := by
  unfold OneLine chunkUp lineOf
  dsimp only
  omega

theorem chunkDown_oneLine {first hi : Nat} (within : first ≤ hi) : OneLine (chunkDown first hi) := by
  unfold OneLine chunkDown lineOf
  dsimp only
  omega

/-- The mask of a chunk marks the bytes of its line that lie in it. -/
theorem getLsbD_maskRange (c : Chunk) (one : OneLine c) (k : Fin 16) :
    (maskRange (offsetOf c.lo) (offsetOf c.hi)).getLsbD k.val =
      decide (c.lo ≤ lineOf c.lo + k.val ∧ lineOf c.lo + k.val < c.lo + c.size) := by
  obtain ⟨below, within⟩ := one
  have bit : (maskRange (offsetOf c.lo) (offsetOf c.hi)).getLsbD k.val =
      decide (offsetOf c.lo ≤ k.val ∧ k.val ≤ offsetOf c.hi) := by
    simp [maskRange, k.isLt]
  rw [bit, decide_eq_decide]
  unfold lineOf at within
  unfold offsetOf lineOf Chunk.size
  omega

/-! ### The running job -/

theorem working_of_running (running : e.state = .running j) (undecided : j.outcome = none) (kept : j.cancel = false) :
    e.working = some j := by
  have works : j.working = true := working_eq_true_iff.mpr ⟨kept, undecided⟩
  simp only [Engine.working, running, works, if_true]

theorem mapActive_running (running : e.state = .running j) (f : ActiveJob → ActiveJob) :
    e.mapActive f = { e with state := .running (f j) } := by
  simp only [Engine.mapActive, running]

theorem conclude_running (running : e.state = .running j) (o : JobOutcome) (v : Nat) :
    e.conclude o v = Engine.withdrawRequest { e with state := .running { j with outcome := some (o, v) } } := by
  rw [Engine.conclude, mapActive_running running]

/-- The last chunk of a job that is not cancelled decides its outcome (R147, R154). -/
theorem finishChunk_last (running : e.state = .running j) (last : j.progress + n = j.job.length) (kept : j.cancel = false)
    (o : JobOutcome) : e.finishChunk j n o = Engine.withdrawRequest { e with
      state := .running { j with progress := j.job.length, outcome := some (o, 0) } } := by
  have decides : j.progress + n = j.job.length ∧ (!j.cancel) = true := ⟨last, by rw [kept]; rfl⟩
  rw [Engine.finishChunk, if_pos decides, mapActive_running running, conclude_running (j := j.advance n) rfl,
    ActiveJob.advance, last]

theorem finishChunk_more (running : e.state = .running j) (more : j.progress + n ≠ j.job.length ∨ j.cancel = true)
    (o : JobOutcome) : e.finishChunk j n o = { e with state := .running { j with progress := j.progress + n } } := by
  have undecided : ¬ (j.progress + n = j.job.length ∧ (!j.cancel) = true) := by
    rintro ⟨last, kept⟩
    rcases more with more | cancelled
    · exact more last
    · simp [cancelled] at kept
  rw [Engine.finishChunk, if_neg undecided, mapActive_running running]
  rfl

theorem getElem_withdrawRequest (e : Engine) (k : Fin 2) : e.withdrawRequest.buffers[k] =
    (e.buffers[k]).map fun x => if x.state = .requested then { x with line := none, state := .empty } else x := by
  unfold Engine.withdrawRequest
  exact Vector.getElem_map ..

theorem endChunk_running (running : s.engine.state = .running j) (n : Nat) :
    s.endChunk n = s.withEngine ({ s.engine with dest := none }.finishChunk j n .complete) := by
  simp only [State.endChunk, active_of_state (.inr running)]

/-! ### The source lines (R149) -/

theorem anyBuffer_iff {p : SourceBuffer → Bool} : e.anyBuffer p = true ↔
    ∃ (k : Fin 2) (x : SourceBuffer), e.buffers[k] = some x ∧ p x = true := by
  rw [← not_iff_not, Bool.not_eq_true, anyBuffer_eq_false_iff]
  push Not
  simp only [ne_eq, Bool.not_eq_true]

theorem mem_buffers_list {b : SourceBuffer} : b ∈ e.buffers.toList.filterMap id ↔ ∃ k : Fin 2, e.buffers[k] = some b := by
  have two : (∃ k : Fin 2, e.buffers[k] = some b) ↔ e.buffers[(0 : Fin 2)] = some b ∨ e.buffers[(1 : Fin 2)] = some b :=
    Fin.exists_fin_two
  rw [buffers_list, List.mem_append, Option.mem_toList, Option.mem_toList, two]

/-- A line with a slot is FILLED in a buffer. -/
theorem anyBuffer_of_slotOfLine {k : SlotId} (h : e.slotOfLine line = some k) :
    (e.anyBuffer fun b => b.has line) = true := by
  obtain ⟨b, listed, found⟩ := List.exists_of_findSome?_eq_some h
  obtain ⟨m, buffer⟩ := mem_buffers_list.mp listed
  exact anyBuffer_iff.mpr ⟨m, b, buffer, (Option.ite_none_right_eq_some.mp found).1⟩

/-- The source lines of a chunk are those of its first and its last byte. -/
theorem mem_copyLines {a b : Nat} {d : Option Direction} {c : Chunk} (h : line ∈ copyLines a b d c) :
    line = lineOf (c.lo + a - b) ∨ line = lineOf (c.hi + a - b) := by
  unfold copyLines at h
  dsimp only at h
  split at h
  · exact .inl (List.mem_singleton.mp h)
  · split at h
    all_goals
      simp only [List.mem_cons, List.not_mem_nil, or_false] at h
      tauto

/-- What the chunk writes at an address, and that it is at hand. -/
def SourceAtHand (s : State) (j : ActiveJob) (c : Chunk) (source : Nat → Byte) : Prop :=
  s.engine.sourcesFilled j = true ∧ ∀ x, c.lo ≤ x → x < c.lo + c.size → s.sourceByte j x = some (source x)

theorem sourceAtHand_fill {a : Nat} {v : Byte} (fill : j.job.work = .fill a v) (c : Chunk) {source : Nat → Byte}
    (same : ∀ x, source x = v) : SourceAtHand s j c source := by
  refine ⟨?_, fun x _ _ => ?_⟩
  · simp only [Engine.sourcesFilled, ActiveJob.neededLines, fill, List.all_nil]
  · simp only [State.sourceByte, fill, same]

theorem sourceAtHand_copy {a b : Nat} {c : Chunk} {source : Nat → Byte} (copy : j.job.work = .copy a b)
    (chunk : j.destChunk = some c) (one : OneLine c)
    (filled : ∀ x, c.lo ≤ x → x < c.lo + c.size → ∃ k, s.engine.slotOfLine (lineOf (x + a - b)) = some k ∧
      source x = Line.at (s.bytesOf k) (x + a - b)) : SourceAtHand s j c source := by
  obtain ⟨below, -⟩ := one
  have size : c.lo + c.size = c.hi + 1 := by
    unfold Chunk.size
    omega
  have has {x : Nat} (lo : c.lo ≤ x) (hi : x ≤ c.hi) : (s.engine.anyBuffer fun y => y.has (lineOf (x + a - b))) = true := by
    obtain ⟨k, held, -⟩ := filled x lo (by omega)
    exact anyBuffer_of_slotOfLine held
  refine ⟨?_, fun x lo hi => ?_⟩
  · simp only [Engine.sourcesFilled, ActiveJob.neededLines, copy, chunk, List.all_eq_true]
    intro l needed
    rcases mem_copyLines needed with rfl | rfl
    · exact has le_rfl below
    · exact has below le_rfl
  · obtain ⟨k, held, byte⟩ := filled x lo hi
    simp only [State.sourceByte, copy, held, byte]

/-- The line built for a chunk whose source is at hand (R147, R149, R150). -/
theorem getElem_builtLine {c : Chunk} {source : Nat → Byte} (one : OneLine c) (source_ : SourceAtHand s j c source)
    (slot : SlotId) (k : Fin 16) :
    (s.builtLine j slot (lineOf c.lo) (maskRange (offsetOf c.lo) (offsetOf c.hi)))[k] =
      if (maskRange (offsetOf c.lo) (offsetOf c.hi)).getLsbD k.val then source (lineOf c.lo + k.val)
      else (s.bytesOf slot)[k] := by
  rw [State.builtLine, getElem_overlay]
  split
  · next marked =>
    rw [getLsbD_maskRange c one k, decide_eq_true_eq] at marked
    have byte := source_.2 _ marked.1 marked.2
    simp [byte]
  · rfl

/-! ### DESTINATION_LINE_BUILD (R147) -/

theorem exec_destinationLineBuild (high : s.resetLow = false) :
    exec .destinationLineBuild s = .next (consequence destinationLineBuild s) := congrArg _ (whileRunning_high high)

theorem destinationLineBuild_some {d : DestLine} {c : Chunk} (working : s.engine.working = some j)
    (dest : s.engine.dest = some d) (posted : d.held = false) (chunk : j.destChunk = some c)
    (filled : s.engine.sourcesFilled j = true) : destinationLineBuild s = some (s.buildAndPost j c d.slot) := by
  simp only [destinationLineBuild, working, dest, chunk, posted, filled, Bool.not_false, Bool.and_self, if_true]

/-- The destination bytes of the present chunk, from their first address on, and the source byte of each: a FILL's value,
or the byte of a source line that is FILLED (R148 to R150). -/
def ChunkSource (s : State) (j : ActiveJob) (first size : Nat) (source : Nat → Byte) : Prop :=
  let copied := fun a b => ∀ x, first ≤ x → x < first + size →
    ∃ k, s.engine.slotOfLine (lineOf (x + a - b)) = some k ∧ source x = Line.at (s.bytesOf k) (x + a - b)
  (∃ a v, j.job.work = .fill a v ∧ first = a + j.progress ∧
    size = min (16 - first % 16) (j.job.length - j.progress) ∧ ∀ x, source x = v) ∨
  (∃ a b, j.job.work = .copy a b ∧ j.direction = some .ascending ∧ first = b + j.progress ∧
    size = min (16 - first % 16) (j.job.length - j.progress) ∧ copied a b) ∨
  (∃ a b top, j.job.work = .copy a b ∧ j.direction = some .descending ∧ top = b + j.job.length - j.progress ∧
    first = max b (lineOf (top - 1)) ∧ size = top - first ∧ copied a b)

theorem chunk_of_source {first size : Nat} {source : Nat → Byte} (h : ChunkSource s j first size source)
    (more : j.progress < j.job.length) :
    ∃ c, j.destChunk = some c ∧ OneLine c ∧ c.lo = first ∧ c.size = size ∧ SourceAtHand s j c source := by
  rcases h with ⟨a, v, fill, at_, rfl, same⟩ | ⟨a, b, copy, up, at_, rfl, filled⟩ |
    ⟨a, b, top, copy, down, rfl, at_, rfl, filled⟩
  · have chunk : j.destChunk = some (chunkUp first (a + j.job.length - 1)) := by
      simp only [ActiveJob.destChunk, fill, at_]
    exact ⟨_, chunk, chunkUp_oneLine (by omega), rfl, chunkUp_size a at_ more, sourceAtHand_fill fill _ same⟩
  · have chunk : j.destChunk = some (chunkUp first (b + j.job.length - 1)) := by
      simp only [ActiveJob.destChunk, copy, up, at_]
    have one : OneLine (chunkUp first (b + j.job.length - 1)) := chunkUp_oneLine (by omega)
    have size := chunkUp_size b at_ more
    refine ⟨_, chunk, one, rfl, size, sourceAtHand_copy copy chunk one ?_⟩
    rw [size]
    exact filled
  · have chunk : j.destChunk = some (chunkDown b (b + j.job.length - 1 - j.progress)) := by
      simp only [ActiveJob.destChunk, copy, down]
    have one : OneLine (chunkDown b (b + j.job.length - 1 - j.progress)) := chunkDown_oneLine (by omega)
    have lo : (chunkDown b (b + j.job.length - 1 - j.progress)).lo = first := by
      rw [at_, show b + j.job.length - j.progress - 1 = b + j.job.length - 1 - j.progress by omega]
      rfl
    have size : (chunkDown b (b + j.job.length - 1 - j.progress)).size = b + j.job.length - j.progress - first := by
      rw [← lo]
      unfold Chunk.size chunkDown
      dsimp only
      omega
    refine ⟨_, chunk, one, lo, size, sourceAtHand_copy copy chunk one ?_⟩
    rw [size, lo]
    exact filled

/-- Settles O50: the chunk and its source bytes by the job's kind, the line built from them, and the end of the chunk. -/
theorem destinationLineIsBuiltAndPosted : Obligations.DestinationLineIsBuiltAndPosted := by
  unfold Obligations.DestinationLineIsBuiltAndPosted
  refine ⟨fun s j d high running undecided kept dest posted first size source bytes more => ?builds,
    fun t j n running => ⟨fun last kept => ?lastChunk, fun more => ?chunk⟩⟩
  case builds =>
    obtain ⟨c, chunk, one, rfl, rfl, atHand⟩ := chunk_of_source bytes more
    have builds := destinationLineBuild_some (working_of_running running undecided kept) dest posted chunk atHand.1
    rw [exec_destinationLineBuild high, consequence_some builds]
    refine ⟨s.builtLine j d.slot (lineOf c.lo) (maskRange (offsetOf c.lo) (offsetOf c.hi)),
      maskRange (offsetOf c.lo) (offsetOf c.hi), getLsbD_maskRange c one, getElem_builtLine one atHand d.slot,
      fun t taken => ?_, fun held => ?_⟩
    · simp only [State.buildAndPost, taken]
    · simp only [State.buildAndPost, held]
      rfl
  case lastChunk =>
    refine ⟨_, rfl, ?_, fun k => ?_⟩
    · rw [endChunk_running running, finishChunk_last (e := { t.engine with dest := none }) running last kept]
      rfl
    · rw [endChunk_running running, finishChunk_last (e := { t.engine with dest := none }) running last kept]
      exact getElem_withdrawRequest _ k
  case chunk =>
    rw [endChunk_running running, finishChunk_more (e := { t.engine with dest := none }) running more]
    rfl

end Sys2Proof.Proofs.DestinationLines

/-! PROOFS. The Move Engine: SCAN and COMPARE decide (R151, R152), and the source lines that a job asks for (R145, R149). -/

namespace Sys2Proof.Proofs.SourceLines

open Sys2Proof Sys2Proof.Machine Sys2Proof.Safety Sys2Proof.Laws
open Sys2Proof.Proofs.ActionChanges Sys2Proof.Proofs.MoveEngine Sys2Proof.Proofs.EventEnd Sys2Proof.Proofs.Grants
open Sys2Proof.Proofs.DestinationLines Sys2Proof.Proofs.Control

variable {s t : State} {e : Engine} {j : ActiveJob} {x line n : Nat} {k : Fin 2}

/-! ### SCAN (R151) -/

theorem exec_scanExamination (high : s.resetLow = false) :
    exec .scanExamination s = .next (consequence scanExamination s) := congrArg _ (whileRunning_high high)

/-- The lowest of some successive numbers of which a test holds. -/
theorem find_range_from {lo size : Nat} {p : Nat → Bool} {x : Nat} (above : lo ≤ x) (below : x < lo + size)
    (hit : p x = true) (before : ∀ y, lo ≤ y → y < x → p y = false) :
    (((List.range size).find? fun k => p (lo + k)).map fun k => lo + k) = some x := by
  have found : ((List.range size).find? fun k => p (lo + k)) = some (x - lo) := by
    rw [List.find?_range_eq_some]
    refine ⟨by rwa [Nat.add_sub_cancel' above], List.mem_range.mpr (by omega), fun y hy => ?_⟩
    rw [before (lo + y) (by omega) (by omega)]
    rfl
  rw [found, Option.map_some, Nat.add_sub_cancel' above]

theorem find_range_none {lo size : Nat} {p : Nat → Bool} (none : ∀ y, lo ≤ y → y < lo + size → p y = false) :
    (((List.range size).find? fun k => p (lo + k)).map fun k => lo + k) = Option.none := by
  rw [Option.map_eq_none_iff, List.find?_range_eq_none]
  intro y hy
  rw [none (lo + y) (by omega) (by omega)]
  rfl

/-- A byte satisfies a stop condition (R151). -/
theorem scanHit_iff {pattern mask v : Byte} {stop : StopCondition} : scanHit pattern mask stop v = true ↔
    (stop = .onMatch ∧ v &&& mask = pattern &&& mask) ∨ (stop = .onMismatch ∧ ¬ v &&& mask = pattern &&& mask) := by
  cases stop <;> simp [scanHit]

theorem scanExamination_some {a : Nat} {pattern mask : Byte} {stop : StopCondition} {slot : SlotId}
    (working : s.engine.working = some j) (scan : j.job.work = .scan a pattern mask stop)
    (filled : s.engine.slotOfLine (lineOf (a + j.progress)) = some slot) :
    scanExamination s = some (s.examine j a pattern mask stop slot) := by
  simp only [scanExamination, working, scan, filled]

section
variable {a : Nat} {pattern mask : Byte} {stop : StopCondition} {slot : SlotId} (more : j.progress < j.job.length)
include more

/-- The lowest byte of the line that satisfies the condition decides FOUND. -/
theorem examine_found (running : s.engine.state = .running j) (above : j.progress ≤ x)
    (below : x < j.progress + min (16 - (a + j.progress) % 16) (j.job.length - j.progress))
    (hit : scanHit pattern mask stop (Line.at (s.bytesOf slot) (a + x)) = true)
    (before : ∀ y, j.progress ≤ y → y < x → scanHit pattern mask stop (Line.at (s.bytesOf slot) (a + y)) = false) :
    s.examine j a pattern mask stop slot = s.withEngine (Engine.withdrawRequest { s.engine with
      state := .running { j with outcome := some (.found, x) } }) := by
  have size := chunkUp_size (first := a + j.progress) a rfl more
  have found : findInChunk (scanChunk a j.job.length j.progress)
      (fun y => scanHit pattern mask stop (Line.at (s.bytesOf slot) y)) = some (a + x) := by
    refine find_range_from (lo := a + j.progress) (x := a + x)
      (p := fun y => scanHit pattern mask stop (Line.at (s.bytesOf slot) y)) (Nat.add_le_add_left above a) ?_ hit
      fun y hy hx => ?_
    · exact size ▸ (by omega)
    obtain ⟨z, rfl⟩ := Nat.exists_eq_add_of_le (Nat.le_trans (Nat.le_add_right a _) hy)
    exact before z (by omega) (by omega)
  simp only [State.examine, found, Nat.add_sub_cancel_left, State.mapEngine, conclude_running running]

/-- No byte of the line satisfies the condition: the chunk ends. -/
theorem examine_passed (none : ∀ y, j.progress ≤ y →
      y < j.progress + min (16 - (a + j.progress) % 16) (j.job.length - j.progress) →
      scanHit pattern mask stop (Line.at (s.bytesOf slot) (a + y)) = false) :
    s.examine j a pattern mask stop slot = s.withEngine (s.engine.finishChunk j
      (min (16 - (a + j.progress) % 16) (j.job.length - j.progress)) .notFound) := by
  have size := chunkUp_size (first := a + j.progress) a rfl more
  have passed : findInChunk (scanChunk a j.job.length j.progress)
      (fun y => scanHit pattern mask stop (Line.at (s.bytesOf slot) y)) = Option.none := by
    refine find_range_none (lo := a + j.progress)
      (p := fun y => scanHit pattern mask stop (Line.at (s.bytesOf slot) y)) fun y hy hx => ?_
    replace hx : y < a + j.progress + min (16 - (a + j.progress) % 16) (j.job.length - j.progress) := size ▸ hx
    obtain ⟨z, rfl⟩ := Nat.exists_eq_add_of_le (Nat.le_trans (Nat.le_add_right a _) hy)
    exact none z (by omega) (by omega)
  simp only [State.examine, passed, State.mapEngine]
  rw [scanChunk, size]

end

/-! ### COMPARE (R152) -/

theorem exec_compareChunk (high : s.resetLow = false) :
    exec .compareChunk s = .next (consequence compareChunk s) := congrArg _ (whileRunning_high high)

theorem bufferHolding_of_filled {slot : SlotId}
    (buffer : e.buffers[k] = some { slot := slot, line := some line, state := .filled }) :
    e.bufferHolding k line = some slot := by
  simp only [Engine.bufferHolding, buffer, SourceBuffer.has, and_self, decide_true, if_true]

theorem compareChunk_some {a b : Nat} {slotA slotB : SlotId} (working : s.engine.working = some j)
    (compare : j.job.work = .compare a b)
    (first : s.engine.buffers[0] = some { slot := slotA, line := some (lineOf (a + j.progress)), state := .filled })
    (second : s.engine.buffers[1] = some { slot := slotB, line := some (lineOf (b + j.progress)), state := .filled }) :
    compareChunk s = some (s.compareLines j a b slotA slotB) := by
  have holdsA : s.engine.bufferHolding 0 (lineOf (a + j.progress)) = some slotA := bufferHolding_of_filled first
  have holdsB : s.engine.bufferHolding 1 (lineOf (b + j.progress)) = some slotB := bufferHolding_of_filled second
  simp only [compareChunk, working, compare, holdsA, holdsB]

section
variable {a b : Nat} {slotA slotB : SlotId}

/-- The bytes of the two lines agree at an offset of the ranges. -/
def Agree (s : State) (a b : Nat) (slotA slotB : SlotId) (i : Nat) : Prop :=
  Line.at (s.bytesOf slotA) (a + i) = Line.at (s.bytesOf slotB) (b + i)

theorem firstDifference_eq (s : State) (a b i n : Nat) (slotA slotB : SlotId) :
    s.firstDifference a b i n slotA slotB = ((List.range n).find? fun k =>
      Line.at (s.bytesOf slotA) (a + (i + k)) != Line.at (s.bytesOf slotB) (b + (i + k))).map fun k => i + k := by
  simp only [State.firstDifference, Nat.add_assoc]

theorem compareLines_different (running : s.engine.state = .running j) (above : j.progress ≤ x)
    (below : x < j.progress + compareSize a b j.job.length j.progress) (differ : ¬ Agree s a b slotA slotB x)
    (before : ∀ y, j.progress ≤ y → y < x → Agree s a b slotA slotB y) :
    s.compareLines j a b slotA slotB = s.withEngine (Engine.withdrawRequest { s.engine with
      state := .running { j with outcome := some (.different, x) } }) := by
  have found : s.firstDifference a b j.progress (compareSize a b j.job.length j.progress) slotA slotB = some x := by
    rw [firstDifference_eq]
    exact find_range_from (p := fun i => Line.at (s.bytesOf slotA) (a + i) != Line.at (s.bytesOf slotB) (b + i)) above below
      (bne_iff_ne.mpr differ) fun y hy hx => bne_eq_false_iff_eq.mpr (before y hy hx)
  simp only [State.compareLines, found, State.mapEngine, conclude_running running]

theorem compareLines_equal
    (same : ∀ y, j.progress ≤ y → y < j.progress + compareSize a b j.job.length j.progress → Agree s a b slotA slotB y) :
    s.compareLines j a b slotA slotB = s.withEngine (s.engine.finishChunk j
      (compareSize a b j.job.length j.progress) .equal) := by
  have none : s.firstDifference a b j.progress (compareSize a b j.job.length j.progress) slotA slotB = Option.none := by
    rw [firstDifference_eq]
    exact find_range_none (p := fun i => Line.at (s.bytesOf slotA) (a + i) != Line.at (s.bytesOf slotB) (b + i))
      fun y hy hx => bne_eq_false_iff_eq.mpr (same y hy hx)
  simp only [State.compareLines, none, State.mapEngine]

end

/-! ### Buffers that qualify (R149, R151, R152) -/

/-- A test holds of a buffer that is there. -/
def heldWith (p : SourceBuffer → Bool) (b : Option SourceBuffer) : Bool :=
  match b with
  | some x => p x
  | none => false

theorem heldWith_iff {p : SourceBuffer → Bool} {b : Option SourceBuffer} :
    heldWith p b = true ↔ ∃ x, b = some x ∧ p x = true := by
  cases b <;> simp [heldWith]

theorem findBuffer_eq_some_iff {p : SourceBuffer → Bool} : e.findBuffer p = some k ↔
    (∃ x, e.buffers[k] = some x ∧ p x = true) ∧
      ∀ (m : Fin 2) (y : SourceBuffer), m < k → e.buffers[m] = some y → p y = false := by
  have shown : e.findBuffer p = (List.finRange 2).find? fun m => heldWith p e.buffers[m] := rfl
  rw [shown, List.find?_eq_some_iff_getElem, heldWith_iff]
  refine and_congr_right fun _ => ⟨?_, fun before => ⟨k.val, by simp; omega, by simp, fun i hi => ?_⟩⟩
  · rintro ⟨i, hi, place, before⟩ m y hm buffer
    obtain rfl : i = k.val := by simpa using congrArg Fin.val place
    have fails := before m.val hm
    rw [Bool.not_eq_true', ← Bool.not_eq_true, heldWith_iff] at fails
    exact Bool.eq_false_iff.mpr fun h => fails ⟨y, by simpa using buffer, h⟩
  · rw [Bool.not_eq_true', ← Bool.not_eq_true, heldWith_iff]
    rintro ⟨y, buffer, h⟩
    have below : i < 2 := hi.trans k.isLt
    rw [before ⟨i, below⟩ y hi (by simpa using buffer)] at h
    cases h

/-- The first buffer, EMPTY or FILLED, of which a test holds. -/
theorem findBuffer_firstBuffer {p : SourceBuffer → Bool} {test : SourceBuffer → Prop}
    (qualifies : ∀ x, p x = true ↔ (x.state = .empty ∨ x.state = .filled) ∧ test x) :
    e.findBuffer p = some k ↔ FirstBuffer e test k := by
  have fails (x : SourceBuffer) : p x = false ↔ (x.state = .empty ∨ x.state = .filled → ¬ test x) := by
    rw [← Bool.not_eq_true, qualifies, not_and]
  rw [findBuffer_eq_some_iff, FirstBuffer]
  simp only [qualifies, fails]

theorem holdsOrFetches_iff {b : SourceBuffer} : b.holdsOrFetches line = true ↔ b.line = some line ∧ b.state ≠ .empty := by
  unfold SourceBuffer.holdsOrFetches
  cases b.state <;> simp

theorem lineHeld_iff : (e.anyBuffer fun b => b.holdsOrFetches line) = true ↔ LineHeld e line := by
  simp only [anyBuffer_iff, holdsOrFetches_iff, LineHeld]

/-! ### COPY (R149) -/

theorem neededLines_copy {a b : Nat} {d : Direction} (copy : j.job.work = .copy a b) (direction : j.direction = some d) :
    j.neededLines = copySourceLines a b j.job.length j.progress d := by
  simp only [ActiveJob.neededLines, ActiveJob.destChunk, copy, direction]
  cases d with
  | ascending =>
    have last := Nat.min_comm (b + j.job.length - 1) (lineOf (b + j.progress) + 15)
    simp only [copyLines, chunkUp, copySourceLines, last]
  | descending =>
    have last : b + j.job.length - 1 - j.progress = b + j.job.length - j.progress - 1 := by omega
    simp only [copyLines, chunkDown, copySourceLines, last]

theorem copyFetch_iff {a b : Nat} {d : Direction} (copy : j.job.work = .copy a b) (direction : j.direction = some d) :
    e.copyFetch j = some (k, line) ↔ CopyFetches e a b j.job.length j.progress d k line := by
  have first : ((j.neededLines.find? fun l => !e.anyBuffer fun b => b.holdsOrFetches l) = some line) ↔
      (∃ before after, copySourceLines a b j.job.length j.progress d = before ++ line :: after ∧
        ∀ l ∈ before, LineHeld e l) ∧ ¬ LineHeld e line := by
    rw [neededLines_copy copy direction, List.find?_eq_some_iff_append]
    simp only [Bool.not_not, lineHeld_iff, Bool.not_eq_true', ← Bool.not_eq_true]
    exact and_comm
  have buffer : (e.findBuffer fun b => b.idle && !(j.neededLines.any fun m => b.holdsOrFetches m)) = some k ↔
      FirstBuffer e (fun x => ∀ l ∈ copySourceLines a b j.job.length j.progress d, x.line = some l → x.state = .empty) k := by
    refine findBuffer_firstBuffer fun x => ?_
    rw [neededLines_copy copy direction, Bool.and_eq_true, idle_iff, Bool.not_eq_true', List.any_eq_false]
    simp only [holdsOrFetches_iff, not_and, ne_eq, not_not]
  rw [CopyFetches, ← and_assoc, ← first, ← buffer]
  unfold Engine.copyFetch
  split
  · next l found =>
    rw [found]
    split
    · next m place => simp [place, and_comm]
    · next none => simp [none]
  · next none => simp [none]

/-! ### SCAN's next line (R151) -/

/-- The lines that the buffers name. -/
def named (e : Engine) : List Nat := (e.buffers.toList.filterMap id).filterMap fun b => b.line

theorem mem_named {l : Nat} : l ∈ named e ↔
    ∃ (m : Fin 2) (y : SourceBuffer), e.buffers[m] = some y ∧ y.line = some l := by
  simp only [named, List.mem_filterMap (f := fun b : SourceBuffer => b.line), mem_buffers_list]
  exact ⟨fun ⟨y, ⟨m, buffer⟩, line⟩ => ⟨m, y, buffer, line⟩, fun ⟨m, y, buffer, line⟩ => ⟨y, ⟨m, buffer⟩, line⟩⟩

theorem foldl_max_mem (l : Nat) (ls : List Nat) : ls.foldl max l ∈ l :: ls := by
  induction ls generalizing l with
  | nil => exact List.mem_singleton_self l
  | cons m ls ih =>
    rw [List.foldl_cons]
    rcases List.mem_cons.mp (ih (max l m)) with top | later
    · rw [top]
      rcases max_choice l m with h | h <;> rw [h] <;> simp
    · exact List.mem_cons_of_mem _ (List.mem_cons_of_mem _ later)

theorem le_foldl_max (l : Nat) (ls : List Nat) : ∀ m ∈ l :: ls, m ≤ ls.foldl max l := by
  induction ls generalizing l with
  | nil => simp
  | cons x ls ih =>
    intro m hm
    rw [List.foldl_cons]
    have top := ih (max l x) (max l x) List.mem_cons_self
    rcases List.mem_cons.mp hm with rfl | hm
    · exact (Nat.le_max_left _ _).trans top
    · rcases List.mem_cons.mp hm with rfl | hm
      · exact (Nat.le_max_right _ _).trans top
      · exact ih (max l x) m (List.mem_cons_of_mem _ hm)

/-- The line of A while none is named, and then the one after the highest named. -/
theorem scanNext_iff {a : Nat} : e.scanNext a = line ↔ (line = lineOf a ∧ ∀ l, l ∉ named e) ∨
    ((∃ l ∈ named e, line = l + 16) ∧ ∀ l ∈ named e, l + 16 ≤ line) := by
  have shown : e.scanNext a = match named e with
    | [] => lineOf a
    | l :: ls => ls.foldl max l + 16 := rfl
  rw [shown]
  cases names : named e with
  | nil => simp [eq_comm]
  | cons l ls =>
    have mem := foldl_max_mem l ls
    have top := le_foldl_max l ls
    dsimp only
    constructor
    · rintro rfl
      exact .inr ⟨⟨_, mem, rfl⟩, fun m hm => Nat.add_le_add_right (top m hm) 16⟩
    · rintro (⟨-, none⟩ | ⟨⟨m, hm, rfl⟩, highest⟩)
      · exact (none l List.mem_cons_self).elim
      · exact Nat.le_antisymm (highest _ mem) (Nat.add_le_add_right (top m hm) 16)

/-- A buffer that can take the next line: EMPTY, or FILLED with a line that has been examined. -/
def reusable (examined : Nat) (b : SourceBuffer) : Bool :=
  b.idle && (match b.line with | some l => decide (l < examined) | none => true)

theorem reusable_iff {b : SourceBuffer} {examined : Nat} : reusable examined b = true ↔
    (b.state = .empty ∨ b.state = .filled) ∧ ∀ l, b.line = some l → l < examined := by
  rw [reusable, Bool.and_eq_true, idle_iff]
  cases b.line <;> simp

theorem scanFetch_eq (e : Engine) (a length progress : Nat) : e.scanFetch a length progress =
    if e.scanNext a ≤ lineOf (a + length - 1) then
      (e.findBuffer (reusable (lineOf (a + progress)))).map fun k => (k, e.scanNext a)
    else none := by
  have found : (e.findBuffer fun b => b.idle && (match b.line with
      | some l => decide (l < lineOf (a + progress)) | none => true)) = e.findBuffer (reusable (lineOf (a + progress))) := rfl
  unfold Engine.scanFetch
  split
  · rw [← found]
    split
    · next k place => exact (congrArg (Option.map fun k => (k, e.scanNext a)) place).symm
    · next none => exact (congrArg (Option.map fun k => (k, e.scanNext a)) none).symm
  · rfl

theorem scanFetch_iff {a length progress : Nat} :
    e.scanFetch a length progress = some (k, line) ↔ ScanFetches e a length progress k line := by
  have next : ((line = lineOf a ∧ ∀ (m : Fin 2) (y : SourceBuffer), e.buffers[m] = some y → y.line = none) ∨
      ((∃ (m : Fin 2) (y : SourceBuffer) (l : Nat), e.buffers[m] = some y ∧ y.line = some l ∧ line = l + 16) ∧
        ∀ (m : Fin 2) (y : SourceBuffer) (l : Nat), e.buffers[m] = some y → y.line = some l → l + 16 ≤ line)) ↔
      e.scanNext a = line := by
    rw [scanNext_iff]
    simp only [mem_named]
    refine or_congr (and_congr_right fun _ => ?_) (and_congr ?_ ?_)
    · refine ⟨fun h l ⟨m, y, buffer, names⟩ => ?_, fun h m y buffer => ?_⟩
      · rw [h m y buffer] at names
        cases names
      · exact Option.eq_none_iff_forall_not_mem.mpr fun l names => h l ⟨m, y, buffer, names⟩
    · exact ⟨fun ⟨m, y, l, buffer, names, same⟩ => ⟨l, ⟨m, y, buffer, names⟩, same⟩,
        fun ⟨l, ⟨m, y, buffer, names⟩, same⟩ => ⟨m, y, l, buffer, names, same⟩⟩
    · exact ⟨fun h l ⟨m, y, buffer, names⟩ => h m y l buffer names, fun h m y l buffer names => h l ⟨m, y, buffer, names⟩⟩
  rw [ScanFetches, next, ← findBuffer_firstBuffer fun x => reusable_iff, scanFetch_eq]
  simp only [Option.ite_none_right_eq_some, Option.map_eq_some_iff, Prod.mk.injEq]
  constructor
  · rintro ⟨within, m, place, rfl, rfl⟩
    exact ⟨within, rfl, place⟩
  · rintro ⟨within, rfl, place⟩
    exact ⟨within, k, place, rfl, rfl⟩

/-! ### COMPARE's next line (R152) -/

/-- A buffer, EMPTY or FILLED, that does not hold a line. -/
def Wants (e : Engine) (k : Fin 2) (line : Nat) : Prop :=
  ∃ x, e.buffers[k] = some x ∧ (x.state = .empty ∨ x.state = .filled) ∧ ¬ (x.line = some line ∧ x.state = .filled)

theorem compareFetchInto_iff {m : Fin 2} {l : Nat} :
    e.compareFetchInto m line = some (k, l) ↔ k = m ∧ l = line ∧ Wants e m line := by
  unfold Engine.compareFetchInto Wants
  cases e.buffers[m] with
  | none => simp
  | some x =>
    simp only [Option.ite_none_right_eq_some, Bool.and_eq_true, idle_iff, SourceBuffer.has, Option.some.injEq,
      Prod.mk.injEq, exists_eq_left', Bool.not_eq_true', decide_eq_false_iff_not]
    constructor
    · rintro ⟨wants, rfl, rfl⟩
      exact ⟨rfl, rfl, wants⟩
    · rintro ⟨rfl, rfl, wants⟩
      exact ⟨wants, rfl, rfl⟩

theorem compareFetch_iff {a b progress : Nat} :
    e.compareFetch a b progress = some (k, line) ↔ CompareFetches e a b progress k line := by
  have shown : CompareFetches e a b progress k line ↔ (k = 0 ∧ line = lineOf (a + progress) ∧ Wants e 0 line) ∨
    (k = 1 ∧ line = lineOf (b + progress) ∧ Wants e 1 line ∧ ¬ Wants e 0 (lineOf (a + progress))) := Iff.rfl
  have choice : e.compareFetch a b progress =
      (e.compareFetchInto 0 (lineOf (a + progress))).or (e.compareFetchInto 1 (lineOf (b + progress))) := by
    unfold Engine.compareFetch
    cases e.compareFetchInto 0 (lineOf (a + progress)) <;> rfl
  have idle : e.compareFetchInto 0 (lineOf (a + progress)) = none ↔ ¬ Wants e 0 (lineOf (a + progress)) := by
    rw [Option.eq_none_iff_forall_ne_some]
    refine ⟨fun none wants => none (0, _) (compareFetchInto_iff.mpr ⟨rfl, rfl, wants⟩), fun settled r found => settled ?_⟩
    exact (compareFetchInto_iff.mp (show _ = some (r.1, r.2) from found)).2.2
  rw [shown, choice, Option.or_eq_some_iff, compareFetchInto_iff, compareFetchInto_iff, idle]
  constructor
  · rintro (⟨rfl, rfl, wants⟩ | ⟨settled, rfl, rfl, wants⟩)
    · exact .inl ⟨rfl, rfl, wants⟩
    · exact .inr ⟨rfl, rfl, wants, settled⟩
  · rintro (⟨rfl, rfl, wants⟩ | ⟨rfl, rfl, wants, settled⟩)
    · exact .inl ⟨rfl, rfl, wants⟩
    · exact .inr ⟨settled, rfl, rfl, wants⟩

/-! ### The engine's request (R145) -/

/-- The line that the job's kind names next, with its buffer. -/
theorem nextFetch_iff (direction : ∀ a b, j.job.work = .copy a b → j.direction ≠ none) :
    e.nextFetch j = some (k, line) ↔ SourceLineFor e j k line := by
  unfold Engine.nextFetch SourceLineFor
  cases work : j.job.work with
  | copy a b =>
    obtain ⟨d, fixed⟩ := Option.ne_none_iff_exists'.mp (direction a b work)
    simp only [fixed, Option.some.injEq, exists_eq_left']
    exact copyFetch_iff work fixed
  | fill a v => simp
  | scan a pattern mask stop => exact scanFetch_iff
  | compare a b => exact compareFetch_iff

theorem engineRequest_idle (h : s.engine.working = none) : engineRequest s = none := by
  simp only [engineRequest, h]

theorem engineRequest_requested {x : SourceBuffer} (buffer : s.engine.buffers[k] = some x) (requested : x.state = .requested) :
    engineRequest s = none := by
  have some : (s.engine.anyBuffer fun b => b.state = .requested) = true :=
    anyBuffer_iff.mpr ⟨k, x, buffer, decide_eq_true requested⟩
  unfold engineRequest
  split
  · exact if_pos some
  · rfl

section
variable (calm : ∀ (m : Fin 2) (y : SourceBuffer), s.engine.buffers[m] = some y → y.state ≠ .requested)
  (working : s.engine.working = some j)
include calm

theorem no_request : (s.engine.anyBuffer fun b => b.state = .requested) = false :=
  anyBuffer_eq_false_iff.mpr fun m y buffer => decide_eq_false (calm m y buffer)

include working

theorem engineRequest_none (none : s.engine.nextFetch j = Option.none) : engineRequest s = Option.none := by
  simp only [engineRequest, working, no_request calm, Bool.false_eq_true, if_false, none]

theorem engineRequest_some {x : SourceBuffer} (next : s.engine.nextFetch j = some (k, line))
    (buffer : s.engine.buffers[k] = some x) : engineRequest s = some (s.withEngine { s.engine with
      buffers := s.engine.buffers.set k.val (some { x with line := some line, state := .requested }) }) := by
  have assigned : s.engine.assign k line = { s.engine with
      buffers := s.engine.buffers.set k.val (some { x with line := some line, state := .requested }) } := by
    simp only [Engine.assign, buffer]
  simp only [engineRequest, working, no_request calm, Bool.false_eq_true, if_false, next, State.mapEngine, assigned]

end

theorem working_none (h : (∀ j, e.state ≠ .running j) ∨
    ∃ j, e.state = .running j ∧ (j.outcome ≠ none ∨ j.cancel = true)) : e.working = none := by
  unfold Engine.working
  split
  · next j running =>
    refine if_neg fun works => ?_
    obtain ⟨kept, undecided⟩ := working_eq_true_iff.mp works
    rcases h with other | ⟨i, running', stopped⟩
    · exact other j running
    · rw [running] at running'
      cases running'
      exact stopped.elim (· undecided) fun cancelled => by simp [kept] at cancelled
  all_goals rfl

theorem examineInTurn_of_none (none : s.eligibleAt 9 = none) : examineInTurn s = scanExamination s := by
  simp [examineInTurn, none]

theorem examineInTurn_of_some {g : Fin 10 × Request} (some : s.eligibleAt 9 = some g) : examineInTurn s = none := by
  simp [examineInTurn, some]

/-- Settles O51: the lowest byte or offset that decides, or the end of the chunk; and the next source line by the
job's kind. -/
theorem scanAndCompareDecide : Obligations.ScanAndCompareDecide := by
  unfold Obligations.ScanAndCompareDecide
  refine ⟨fun s j high running undecided kept more => ⟨fun a pattern mask stop slot scan filled => ?scan,
      fun a b slotA slotB compare first second => ?compare⟩, fun e => ?withdraw, fun s => ?turns,
    fun s q presented eligible => ?granted, fun s none => examineInTurn_of_none (eligibleAt_eq_none_iff.mpr none),
    fun s h => ?idle, fun s j running undecided kept more direction calm => ?requests⟩
  case scan =>
    have examines := scanExamination_some (working_of_running running undecided kept) scan filled
    rw [exec_scanExamination high, consequence_some examines]
    refine ⟨fun x above below hit before => ?_, fun none => ?_⟩
    · rw [examine_found more running above below (scanHit_iff.mpr hit) fun y hy hx =>
        Bool.eq_false_iff.mpr fun h => before y hy hx (scanHit_iff.mp h)]
      rfl
    · rw [examine_passed more fun y hy hx => Bool.eq_false_iff.mpr fun h => none y hy hx (scanHit_iff.mp h)]
      refine ⟨fun last => ?_, fun further => ?_⟩
      · rw [finishChunk_last running last kept]
        rfl
      · rw [finishChunk_more running (.inl further)]
        rfl
  case compare =>
    have compares := compareChunk_some (working_of_running running undecided kept) compare first second
    rw [exec_compareChunk high, consequence_some compares]
    refine ⟨fun x above below differ before => ?_, fun same => ?_⟩
    · rw [compareLines_different running above below differ before]
      rfl
    · rw [compareLines_equal same]
      refine ⟨fun last => ?_, fun further => ?_⟩
      · rw [finishChunk_last running (by exact last) kept]
        rfl
      · rw [finishChunk_more running (.inl (by exact further))]
        rfl
  case withdraw =>
    exact ⟨_, rfl, getElem_withdrawRequest e⟩
  case turns =>
    cases turn : s.eligibleAt 9 with
    | none => exact .inr (examineInTurn_of_none turn)
    | some g => exact .inl (examineInTurn_of_some turn)
  case granted =>
    exact examineInTurn_of_some (eligibleAt_some presented eligible)
  case idle =>
    rcases h with other | ⟨k, x, buffer, requested⟩ | stopped
    · exact engineRequest_idle (working_none (.inl other))
    · exact engineRequest_requested buffer requested
    · exact engineRequest_idle (working_none (.inr stopped))
  case requests =>
    have working := working_of_running running undecided kept
    refine ⟨fun none => engineRequest_none calm working ?_, fun k x line names buffer => ?_⟩
    · exact Option.eq_none_iff_forall_ne_some.mpr fun r found =>
        none r.1 r.2 ((nextFetch_iff direction).mp (show _ = some (r.1, r.2) from found))
    · exact engineRequest_some calm working ((nextFetch_iff direction).mpr names) buffer

end Sys2Proof.Proofs.SourceLines
